-- ==== Sys2Proof/Word.lean ====
section
/-! DEFINITION. The word types of the Nios II: 32-bit registers and addresses, 8-bit bytes, 5-bit register indexes
(00_scope.md R8, 10_state.md R20). -/

namespace Sys2Proof

/-- A 32-bit register, address or instruction word (00_scope.md R8). -/
abbrev Word := BitVec 32

/-- One byte of memory (20_memory.md R100). -/
abbrev Byte := BitVec 8

/-- A 5-bit register field A, B or C of an instruction word (10_state.md R20, 30_encoding.md R201). -/
abbrev RegIdx := BitVec 5

end Sys2Proof
end

