-- ==== Sys2Proof/Machine/Fields.lean ====
section
/-! DEFINITION. Bit fields of a word, sign and zero extension, and little-endian byte order: the helpers every layer
reads and builds words with (00_scope.md R8, R9, 20_memory.md R107). -/

namespace Sys2Proof

/-- The field `f` put at bits `lo` and up of a word, every other bit 0: one operand of the concatenation `a : b` of
00_scope.md R8. -/
def place {k : Nat} (f : BitVec k) (lo : Nat) : Word := f.setWidth 32 <<< lo

/-- The field of `k` bits from bit `lo` up: `w[lo+k-1:lo]` (00_scope.md R8). -/
def field (w : Word) (lo k : Nat) : BitVec k := w.extractLsb' lo k

/-- `w` with the field of `k` bits from bit `lo` up replaced by `v`, every other bit kept. -/
def setField (w : Word) (lo k : Nat) (v : BitVec k) : Word := (w &&& ~~~(place (BitVec.allOnes k) lo)) ||| place v lo

/-- Bit `n` of a word. -/
def bit (w : Word) (n : Nat) : Bool := w.getLsbD n

/-- `w` with bit `n` replaced by `v`. -/
def setBit (w : Word) (n : Nat) (v : Bool) : Word := setField w n 1 (BitVec.ofBool v)

/-- `sext_N(v)` (00_scope.md R9). -/
def sext {n : Nat} (v : BitVec n) : Word := v.signExtend 32

/-- `zext_N(v)` (00_scope.md R9). -/
def zext {n : Nat} (v : BitVec n) : Word := v.setWidth 32

/-- `(IMM16 : 0x0000)`: the immediate in the high half (30_encoding.md R205). -/
def hiHalf (imm16 : BitVec 16) : Word := place imm16 16

/-- The word whose bytes, lowest address first, are the arguments: little-endian (20_memory.md R107). -/
def wordOfBytes (b0 b1 b2 b3 : Byte) : Word := place b0 0 ||| place b1 8 ||| place b2 16 ||| place b3 24

/-- Byte `k` of a word as memory holds it, byte 0 at the lowest address (20_memory.md R107). -/
def byteOfWord (w : Word) (k : Nat) : Byte := w.extractLsb' (8 * k) 8

/-- The four bytes of a word, lowest address first (20_memory.md R107). -/
def bytesOfWord (w : Word) : List Byte := [byteOfWord w 0, byteOfWord w 1, byteOfWord w 2, byteOfWord w 3]

/-- The little-endian value of up to four bytes, zero-extended (20_memory.md R107, R110 step 5). -/
def wordOfByteList : List Byte → Word
  | [] => 0#32
  | b :: bs => zext b ||| (wordOfByteList bs <<< 8)

end Sys2Proof
end

