-- ==== Sys2Proof/Syntax.lean ====
section
/-! DEFINITION. The instructions of the Nios II: one constructor for each row of spec/opcode_table.json, its
arguments the operand fields of that row in the order of the assembler syntax (30_encoding.md R209, R213). -/

namespace Sys2Proof

/-- The 87 machine instructions (30_encoding.md R206). A field `a`, `b` or `c` is the field A, B or C of the word;
`imm16`, `imm26`, `imm5` and `n` are its immediates, raw (30_encoding.md R205). -/
inductive Instr where
  -- Data transfer (40_data_transfer.md)
  /-- `ldb rB, byte_offset(rA)` (R242). -/
  | ldb (b : RegIdx) (a : RegIdx) (imm16 : BitVec 16)
  /-- `ldbio rB, byte_offset(rA)` (R243). -/
  | ldbio (b : RegIdx) (a : RegIdx) (imm16 : BitVec 16)
  /-- `ldbu rB, byte_offset(rA)` (R244). -/
  | ldbu (b : RegIdx) (a : RegIdx) (imm16 : BitVec 16)
  /-- `ldbuio rB, byte_offset(rA)` (R245). -/
  | ldbuio (b : RegIdx) (a : RegIdx) (imm16 : BitVec 16)
  /-- `ldh rB, byte_offset(rA)` (R246). -/
  | ldh (b : RegIdx) (a : RegIdx) (imm16 : BitVec 16)
  /-- `ldhio rB, byte_offset(rA)` (R247). -/
  | ldhio (b : RegIdx) (a : RegIdx) (imm16 : BitVec 16)
  /-- `ldhu rB, byte_offset(rA)` (R248). -/
  | ldhu (b : RegIdx) (a : RegIdx) (imm16 : BitVec 16)
  /-- `ldhuio rB, byte_offset(rA)` (R249). -/
  | ldhuio (b : RegIdx) (a : RegIdx) (imm16 : BitVec 16)
  /-- `ldw rB, byte_offset(rA)` (R250). -/
  | ldw (b : RegIdx) (a : RegIdx) (imm16 : BitVec 16)
  /-- `ldwio rB, byte_offset(rA)` (R251). -/
  | ldwio (b : RegIdx) (a : RegIdx) (imm16 : BitVec 16)
  /-- `stb rB, byte_offset(rA)` (R252). -/
  | stb (b : RegIdx) (a : RegIdx) (imm16 : BitVec 16)
  /-- `stbio rB, byte_offset(rA)` (R253). -/
  | stbio (b : RegIdx) (a : RegIdx) (imm16 : BitVec 16)
  /-- `sth rB, byte_offset(rA)` (R254). -/
  | sth (b : RegIdx) (a : RegIdx) (imm16 : BitVec 16)
  /-- `sthio rB, byte_offset(rA)` (R255). -/
  | sthio (b : RegIdx) (a : RegIdx) (imm16 : BitVec 16)
  /-- `stw rB, byte_offset(rA)` (R256). -/
  | stw (b : RegIdx) (a : RegIdx) (imm16 : BitVec 16)
  /-- `stwio rB, byte_offset(rA)` (R257). -/
  | stwio (b : RegIdx) (a : RegIdx) (imm16 : BitVec 16)
  -- Arithmetic and logical (41_arith_logic.md)
  /-- `add rC, rA, rB` (R270). -/
  | add (c : RegIdx) (a : RegIdx) (b : RegIdx)
  /-- `addi rB, rA, IMM16` (R271). -/
  | addi (b : RegIdx) (a : RegIdx) (imm16 : BitVec 16)
  /-- `sub rC, rA, rB` (R272). -/
  | sub (c : RegIdx) (a : RegIdx) (b : RegIdx)
  /-- `and rC, rA, rB` (R274). -/
  | and (c : RegIdx) (a : RegIdx) (b : RegIdx)
  /-- `andi rB, rA, IMM16` (R275). -/
  | andi (b : RegIdx) (a : RegIdx) (imm16 : BitVec 16)
  /-- `andhi rB, rA, IMM16` (R276). -/
  | andhi (b : RegIdx) (a : RegIdx) (imm16 : BitVec 16)
  /-- `or rC, rA, rB` (R277). -/
  | or (c : RegIdx) (a : RegIdx) (b : RegIdx)
  /-- `ori rB, rA, IMM16` (R278). -/
  | ori (b : RegIdx) (a : RegIdx) (imm16 : BitVec 16)
  /-- `orhi rB, rA, IMM16` (R279). -/
  | orhi (b : RegIdx) (a : RegIdx) (imm16 : BitVec 16)
  /-- `xor rC, rA, rB` (R287). -/
  | xor (c : RegIdx) (a : RegIdx) (b : RegIdx)
  /-- `xori rB, rA, IMM16` (R288). -/
  | xori (b : RegIdx) (a : RegIdx) (imm16 : BitVec 16)
  /-- `xorhi rB, rA, IMM16` (R289). -/
  | xorhi (b : RegIdx) (a : RegIdx) (imm16 : BitVec 16)
  /-- `nor rC, rA, rB` (R290). -/
  | nor (c : RegIdx) (a : RegIdx) (b : RegIdx)
  /-- `mul rC, rA, rB` (R280). -/
  | mul (c : RegIdx) (a : RegIdx) (b : RegIdx)
  /-- `muli rB, rA, IMM16` (R281). -/
  | muli (b : RegIdx) (a : RegIdx) (imm16 : BitVec 16)
  /-- `mulxss rC, rA, rB` (R282). -/
  | mulxss (c : RegIdx) (a : RegIdx) (b : RegIdx)
  /-- `mulxsu rC, rA, rB` (R283). -/
  | mulxsu (c : RegIdx) (a : RegIdx) (b : RegIdx)
  /-- `mulxuu rC, rA, rB` (R284). -/
  | mulxuu (c : RegIdx) (a : RegIdx) (b : RegIdx)
  /-- `div rC, rA, rB` (R285). -/
  | div (c : RegIdx) (a : RegIdx) (b : RegIdx)
  /-- `divu rC, rA, rB` (R286). -/
  | divu (c : RegIdx) (a : RegIdx) (b : RegIdx)
  -- Comparison (43_compare.md)
  /-- `cmpeq rC, rA, rB` (R311). -/
  | cmpeq (c : RegIdx) (a : RegIdx) (b : RegIdx)
  /-- `cmpne rC, rA, rB` (R313). -/
  | cmpne (c : RegIdx) (a : RegIdx) (b : RegIdx)
  /-- `cmpge rC, rA, rB` (R315). -/
  | cmpge (c : RegIdx) (a : RegIdx) (b : RegIdx)
  /-- `cmpgeu rC, rA, rB` (R317). -/
  | cmpgeu (c : RegIdx) (a : RegIdx) (b : RegIdx)
  /-- `cmplt rC, rA, rB` (R319). -/
  | cmplt (c : RegIdx) (a : RegIdx) (b : RegIdx)
  /-- `cmpltu rC, rA, rB` (R321). -/
  | cmpltu (c : RegIdx) (a : RegIdx) (b : RegIdx)
  /-- `cmpeqi rB, rA, IMM16` (R312). -/
  | cmpeqi (b : RegIdx) (a : RegIdx) (imm16 : BitVec 16)
  /-- `cmpnei rB, rA, IMM16` (R314). -/
  | cmpnei (b : RegIdx) (a : RegIdx) (imm16 : BitVec 16)
  /-- `cmpgei rB, rA, IMM16` (R316). -/
  | cmpgei (b : RegIdx) (a : RegIdx) (imm16 : BitVec 16)
  /-- `cmpgeui rB, rA, IMM16` (R318). -/
  | cmpgeui (b : RegIdx) (a : RegIdx) (imm16 : BitVec 16)
  /-- `cmplti rB, rA, IMM16` (R320). -/
  | cmplti (b : RegIdx) (a : RegIdx) (imm16 : BitVec 16)
  /-- `cmpltui rB, rA, IMM16` (R330). -/
  | cmpltui (b : RegIdx) (a : RegIdx) (imm16 : BitVec 16)
  -- Shift and rotate (44_shift_rotate.md)
  /-- `rol rC, rA, rB` (R341). -/
  | rol (c : RegIdx) (a : RegIdx) (b : RegIdx)
  /-- `roli rC, rA, IMM5` (R342). -/
  | roli (c : RegIdx) (a : RegIdx) (imm5 : BitVec 5)
  /-- `ror rC, rA, rB` (R343). -/
  | ror (c : RegIdx) (a : RegIdx) (b : RegIdx)
  /-- `sll rC, rA, rB` (R344). -/
  | sll (c : RegIdx) (a : RegIdx) (b : RegIdx)
  /-- `slli rC, rA, IMM5` (R345). -/
  | slli (c : RegIdx) (a : RegIdx) (imm5 : BitVec 5)
  /-- `srl rC, rA, rB` (R348). -/
  | srl (c : RegIdx) (a : RegIdx) (b : RegIdx)
  /-- `srli rC, rA, IMM5` (R349). -/
  | srli (c : RegIdx) (a : RegIdx) (imm5 : BitVec 5)
  /-- `sra rC, rA, rB` (R346). -/
  | sra (c : RegIdx) (a : RegIdx) (b : RegIdx)
  /-- `srai rC, rA, IMM5` (R347). -/
  | srai (c : RegIdx) (a : RegIdx) (imm5 : BitVec 5)
  -- Program control (45_program_control.md)
  /-- `br label` (R363). -/
  | br (imm16 : BitVec 16)
  /-- `call label` (R369). -/
  | call (imm26 : BitVec 26)
  /-- `callr rA` (R370). -/
  | callr (a : RegIdx)
  /-- `jmp rA` (R371). -/
  | jmp (a : RegIdx)
  /-- `jmpi label` (R372). -/
  | jmpi (imm26 : BitVec 26)
  /-- `ret` (R374). -/
  | ret
  /-- `nextpc rC` (R373). -/
  | nextpc (c : RegIdx)
  /-- `beq rA, rB, label` (R364). -/
  | beq (a : RegIdx) (b : RegIdx) (imm16 : BitVec 16)
  /-- `bne rA, rB, label` (R365). -/
  | bne (a : RegIdx) (b : RegIdx) (imm16 : BitVec 16)
  /-- `bge rA, rB, label` (R366). -/
  | bge (a : RegIdx) (b : RegIdx) (imm16 : BitVec 16)
  /-- `bgeu rA, rB, label` (R367). -/
  | bgeu (a : RegIdx) (b : RegIdx) (imm16 : BitVec 16)
  /-- `blt rA, rB, label` (R368). -/
  | blt (a : RegIdx) (b : RegIdx) (imm16 : BitVec 16)
  /-- `bltu rA, rB, label` (R375). -/
  | bltu (a : RegIdx) (b : RegIdx) (imm16 : BitVec 16)
  /-- `trap | trap imm5` (R376). -/
  | trap (imm5 : BitVec 5)
  -- Other control (46_other_control.md)
  /-- `eret` (R392). -/
  | eret
  /-- `bret` (R393). -/
  | bret
  /-- `break | break imm5` (R394). -/
  | brk (imm5 : BitVec 5)
  /-- `rdctl rC, ctlN` (R395). -/
  | rdctl (c : RegIdx) (n : BitVec 5)
  /-- `wrctl ctlN, rA` (R396). -/
  | wrctl (n : BitVec 5) (a : RegIdx)
  /-- `flushd IMM16(rA)` (R397). -/
  | flushd (a : RegIdx) (imm16 : BitVec 16)
  /-- `flushda IMM16(rA)` (R398). -/
  | flushda (a : RegIdx) (imm16 : BitVec 16)
  /-- `initd IMM16(rA)` (R400). -/
  | initd (a : RegIdx) (imm16 : BitVec 16)
  /-- `initda IMM16(rA)` (R403). -/
  | initda (a : RegIdx) (imm16 : BitVec 16)
  /-- `flushi rA` (R399). -/
  | flushi (a : RegIdx)
  /-- `initi rA` (R404). -/
  | initi (a : RegIdx)
  /-- `flushp` (R407). -/
  | flushp
  /-- `sync` (R408). -/
  | sync
  /-- `rdprs rB, rA, IMM16` (R411). -/
  | rdprs (b : RegIdx) (a : RegIdx) (imm16 : BitVec 16)
  /-- `wrprs rC, rA` (R412). -/
  | wrprs (c : RegIdx) (a : RegIdx)
  -- Custom (47_custom_nop.md)
  /-- `custom N, xC, xA, xB` (R420). -/
  | custom (n : BitVec 8) (readra : Bool) (readrb : Bool) (writerc : Bool) (c : RegIdx) (a : RegIdx) (b : RegIdx)
deriving DecidableEq, Repr

end Sys2Proof
end

