-- ==== Sys2Proof/WellFormed.lean ====
section
/-! DEFINITION. The instructions an assembler may emit: the operand checks that the spec puts on a word beyond its
fields. -/

namespace Sys2Proof

/-- The offset of a branch: "The two least-significant bits of IMM16 are always zero" (30_encoding.md R205). -/
def branchOffsetOk (imm16 : BitVec 16) : Bool := imm16.extractLsb' 0 2 == 0#2

/-- The register of `jmp`: "It is illegal to jump to the address contained in register r31"
(45_program_control.md R371). -/
def jmpRegisterOk (a : RegIdx) : Bool := a != 31#5

/-- The well-formed instructions. Every operand field admits all its values but those of the two checks above. -/
def WellFormed : Instr → Bool
  | .ldb _ _ _ => true
  | .ldbio _ _ _ => true
  | .ldbu _ _ _ => true
  | .ldbuio _ _ _ => true
  | .ldh _ _ _ => true
  | .ldhio _ _ _ => true
  | .ldhu _ _ _ => true
  | .ldhuio _ _ _ => true
  | .ldw _ _ _ => true
  | .ldwio _ _ _ => true
  | .stb _ _ _ => true
  | .stbio _ _ _ => true
  | .sth _ _ _ => true
  | .sthio _ _ _ => true
  | .stw _ _ _ => true
  | .stwio _ _ _ => true
  | .add _ _ _ => true
  | .addi _ _ _ => true
  | .sub _ _ _ => true
  | .and _ _ _ => true
  | .andi _ _ _ => true
  | .andhi _ _ _ => true
  | .or _ _ _ => true
  | .ori _ _ _ => true
  | .orhi _ _ _ => true
  | .xor _ _ _ => true
  | .xori _ _ _ => true
  | .xorhi _ _ _ => true
  | .nor _ _ _ => true
  | .mul _ _ _ => true
  | .muli _ _ _ => true
  | .mulxss _ _ _ => true
  | .mulxsu _ _ _ => true
  | .mulxuu _ _ _ => true
  | .div _ _ _ => true
  | .divu _ _ _ => true
  | .cmpeq _ _ _ => true
  | .cmpne _ _ _ => true
  | .cmpge _ _ _ => true
  | .cmpgeu _ _ _ => true
  | .cmplt _ _ _ => true
  | .cmpltu _ _ _ => true
  | .cmpeqi _ _ _ => true
  | .cmpnei _ _ _ => true
  | .cmpgei _ _ _ => true
  | .cmpgeui _ _ _ => true
  | .cmplti _ _ _ => true
  | .cmpltui _ _ _ => true
  | .rol _ _ _ => true
  | .roli _ _ _ => true
  | .ror _ _ _ => true
  | .sll _ _ _ => true
  | .slli _ _ _ => true
  | .srl _ _ _ => true
  | .srli _ _ _ => true
  | .sra _ _ _ => true
  | .srai _ _ _ => true
  | .br imm16 => branchOffsetOk imm16
  | .call _ => true
  | .callr _ => true
  | .jmp a => jmpRegisterOk a
  | .jmpi _ => true
  | .ret => true
  | .nextpc _ => true
  | .beq _ _ imm16 => branchOffsetOk imm16
  | .bne _ _ imm16 => branchOffsetOk imm16
  | .bge _ _ imm16 => branchOffsetOk imm16
  | .bgeu _ _ imm16 => branchOffsetOk imm16
  | .blt _ _ imm16 => branchOffsetOk imm16
  | .bltu _ _ imm16 => branchOffsetOk imm16
  | .trap _ => true
  | .eret => true
  | .bret => true
  | .brk _ => true
  | .rdctl _ _ => true
  | .wrctl _ _ => true
  | .flushd _ _ => true
  | .flushda _ _ => true
  | .initd _ _ => true
  | .initda _ _ => true
  | .flushi _ => true
  | .initi _ => true
  | .flushp => true
  | .sync => true
  | .rdprs _ _ _ => true
  | .wrprs _ _ => true
  | .custom _ _ _ _ _ _ _ => true

end Sys2Proof
end

