-- ==== Sys2Proof/Decode.lean ====
section
/-! DEFINITION. The decoder, total on any bytes, and the encoder, both from the tables of 30_encoding.md. -/

namespace Sys2Proof

/-- Why the decoder refuses (30_encoding.md R206, R211). -/
inductive DecodeError where
  /-- Fewer than the four bytes of an instruction word. -/
  | truncated
  /-- OP is one of the 18 undefined values of 30_encoding.md R207. -/
  | reservedOp (op : BitVec 6)
  /-- OP is 0x3A and OPX6 is one of the 22 undefined values of 30_encoding.md R208. -/
  | reservedOpx (opx : BitVec 6)
deriving DecidableEq, Repr

/-! ## Fields of the instruction word (30_encoding.md R201 to R204) -/

/-- OP = word[5:0]. -/
def opOf (w : Word) : BitVec 6 := w.extractLsb' 0 6
/-- OPX6 = word[16:11]. -/
def opxOf (w : Word) : BitVec 6 := w.extractLsb' 11 6
/-- IMM5 (or N of rdctl and wrctl) = word[10:6]. -/
def imm5Of (w : Word) : BitVec 5 := w.extractLsb' 6 5
/-- A = word[31:27]. -/
def aOf (w : Word) : RegIdx := w.extractLsb' 27 5
/-- B = word[26:22]. -/
def bOf (w : Word) : RegIdx := w.extractLsb' 22 5
/-- C = word[21:17]. -/
def cOf (w : Word) : RegIdx := w.extractLsb' 17 5
/-- IMM16 = word[21:6]. -/
def imm16Of (w : Word) : BitVec 16 := w.extractLsb' 6 16
/-- IMM26 = word[31:6]. -/
def imm26Of (w : Word) : BitVec 26 := w.extractLsb' 6 26
/-- N of `custom` = word[13:6]. -/
def customNOf (w : Word) : BitVec 8 := w.extractLsb' 6 8
/-- readra = word[16]. -/
def readraOf (w : Word) : Bool := w.getLsbD 16
/-- readrb = word[15]. -/
def readrbOf (w : Word) : Bool := w.getLsbD 15
/-- writerc = word[14]. -/
def writercOf (w : Word) : Bool := w.getLsbD 14

/-! ## Decoding -/

/-- The R-type instructions: Table 91 (30_encoding.md R208), fields by 30_encoding.md R209. Constant fields are not
tested (30_encoding.md R212). -/
def decodeR (w : Word) : Except DecodeError Instr :=
  match opxOf w with
  | 0x01#6 => .ok .eret
  | 0x02#6 => .ok (.roli (cOf w) (aOf w) (imm5Of w))
  | 0x03#6 => .ok (.rol (cOf w) (aOf w) (bOf w))
  | 0x04#6 => .ok .flushp
  | 0x05#6 => .ok .ret
  | 0x06#6 => .ok (.nor (cOf w) (aOf w) (bOf w))
  | 0x07#6 => .ok (.mulxuu (cOf w) (aOf w) (bOf w))
  | 0x08#6 => .ok (.cmpge (cOf w) (aOf w) (bOf w))
  | 0x09#6 => .ok .bret
  | 0x0B#6 => .ok (.ror (cOf w) (aOf w) (bOf w))
  | 0x0C#6 => .ok (.flushi (aOf w))
  | 0x0D#6 => .ok (.jmp (aOf w))
  | 0x0E#6 => .ok (.and (cOf w) (aOf w) (bOf w))
  | 0x10#6 => .ok (.cmplt (cOf w) (aOf w) (bOf w))
  | 0x12#6 => .ok (.slli (cOf w) (aOf w) (imm5Of w))
  | 0x13#6 => .ok (.sll (cOf w) (aOf w) (bOf w))
  | 0x14#6 => .ok (.wrprs (cOf w) (aOf w))
  | 0x16#6 => .ok (.or (cOf w) (aOf w) (bOf w))
  | 0x17#6 => .ok (.mulxsu (cOf w) (aOf w) (bOf w))
  | 0x18#6 => .ok (.cmpne (cOf w) (aOf w) (bOf w))
  | 0x1A#6 => .ok (.srli (cOf w) (aOf w) (imm5Of w))
  | 0x1B#6 => .ok (.srl (cOf w) (aOf w) (bOf w))
  | 0x1C#6 => .ok (.nextpc (cOf w))
  | 0x1D#6 => .ok (.callr (aOf w))
  | 0x1E#6 => .ok (.xor (cOf w) (aOf w) (bOf w))
  | 0x1F#6 => .ok (.mulxss (cOf w) (aOf w) (bOf w))
  | 0x20#6 => .ok (.cmpeq (cOf w) (aOf w) (bOf w))
  | 0x24#6 => .ok (.divu (cOf w) (aOf w) (bOf w))
  | 0x25#6 => .ok (.div (cOf w) (aOf w) (bOf w))
  | 0x26#6 => .ok (.rdctl (cOf w) (imm5Of w))
  | 0x27#6 => .ok (.mul (cOf w) (aOf w) (bOf w))
  | 0x28#6 => .ok (.cmpgeu (cOf w) (aOf w) (bOf w))
  | 0x29#6 => .ok (.initi (aOf w))
  | 0x2D#6 => .ok (.trap (imm5Of w))
  | 0x2E#6 => .ok (.wrctl (imm5Of w) (aOf w))
  | 0x30#6 => .ok (.cmpltu (cOf w) (aOf w) (bOf w))
  | 0x31#6 => .ok (.add (cOf w) (aOf w) (bOf w))
  | 0x34#6 => .ok (.brk (imm5Of w))
  | 0x36#6 => .ok .sync
  | 0x39#6 => .ok (.sub (cOf w) (aOf w) (bOf w))
  | 0x3A#6 => .ok (.srai (cOf w) (aOf w) (imm5Of w))
  | 0x3B#6 => .ok (.sra (cOf w) (aOf w) (bOf w))
  | opx => .error (.reservedOpx opx)

/-- One instruction word: Table 90 (30_encoding.md R206, R207), fields by 30_encoding.md R204, R213. -/
def decodeWord (w : Word) : Except DecodeError Instr :=
  match opOf w with
  | 0x00#6 => .ok (.call (imm26Of w))
  | 0x01#6 => .ok (.jmpi (imm26Of w))
  | 0x03#6 => .ok (.ldbu (bOf w) (aOf w) (imm16Of w))
  | 0x04#6 => .ok (.addi (bOf w) (aOf w) (imm16Of w))
  | 0x05#6 => .ok (.stb (bOf w) (aOf w) (imm16Of w))
  | 0x06#6 => .ok (.br (imm16Of w))
  | 0x07#6 => .ok (.ldb (bOf w) (aOf w) (imm16Of w))
  | 0x08#6 => .ok (.cmpgei (bOf w) (aOf w) (imm16Of w))
  | 0x0B#6 => .ok (.ldhu (bOf w) (aOf w) (imm16Of w))
  | 0x0C#6 => .ok (.andi (bOf w) (aOf w) (imm16Of w))
  | 0x0D#6 => .ok (.sth (bOf w) (aOf w) (imm16Of w))
  | 0x0E#6 => .ok (.bge (aOf w) (bOf w) (imm16Of w))
  | 0x0F#6 => .ok (.ldh (bOf w) (aOf w) (imm16Of w))
  | 0x10#6 => .ok (.cmplti (bOf w) (aOf w) (imm16Of w))
  | 0x13#6 => .ok (.initda (aOf w) (imm16Of w))
  | 0x14#6 => .ok (.ori (bOf w) (aOf w) (imm16Of w))
  | 0x15#6 => .ok (.stw (bOf w) (aOf w) (imm16Of w))
  | 0x16#6 => .ok (.blt (aOf w) (bOf w) (imm16Of w))
  | 0x17#6 => .ok (.ldw (bOf w) (aOf w) (imm16Of w))
  | 0x18#6 => .ok (.cmpnei (bOf w) (aOf w) (imm16Of w))
  | 0x1B#6 => .ok (.flushda (aOf w) (imm16Of w))
  | 0x1C#6 => .ok (.xori (bOf w) (aOf w) (imm16Of w))
  | 0x1E#6 => .ok (.bne (aOf w) (bOf w) (imm16Of w))
  | 0x20#6 => .ok (.cmpeqi (bOf w) (aOf w) (imm16Of w))
  | 0x23#6 => .ok (.ldbuio (bOf w) (aOf w) (imm16Of w))
  | 0x24#6 => .ok (.muli (bOf w) (aOf w) (imm16Of w))
  | 0x25#6 => .ok (.stbio (bOf w) (aOf w) (imm16Of w))
  | 0x26#6 => .ok (.beq (aOf w) (bOf w) (imm16Of w))
  | 0x27#6 => .ok (.ldbio (bOf w) (aOf w) (imm16Of w))
  | 0x28#6 => .ok (.cmpgeui (bOf w) (aOf w) (imm16Of w))
  | 0x2B#6 => .ok (.ldhuio (bOf w) (aOf w) (imm16Of w))
  | 0x2C#6 => .ok (.andhi (bOf w) (aOf w) (imm16Of w))
  | 0x2D#6 => .ok (.sthio (bOf w) (aOf w) (imm16Of w))
  | 0x2E#6 => .ok (.bgeu (aOf w) (bOf w) (imm16Of w))
  | 0x2F#6 => .ok (.ldhio (bOf w) (aOf w) (imm16Of w))
  | 0x30#6 => .ok (.cmpltui (bOf w) (aOf w) (imm16Of w))
  | 0x32#6 => .ok (.custom (customNOf w) (readraOf w) (readrbOf w) (writercOf w) (cOf w) (aOf w) (bOf w))
  | 0x33#6 => .ok (.initd (aOf w) (imm16Of w))
  | 0x34#6 => .ok (.orhi (bOf w) (aOf w) (imm16Of w))
  | 0x35#6 => .ok (.stwio (bOf w) (aOf w) (imm16Of w))
  | 0x36#6 => .ok (.bltu (aOf w) (bOf w) (imm16Of w))
  | 0x37#6 => .ok (.ldwio (bOf w) (aOf w) (imm16Of w))
  | 0x38#6 => .ok (.rdprs (bOf w) (aOf w) (imm16Of w))
  | 0x3A#6 => decodeR w
  | 0x3B#6 => .ok (.flushd (aOf w) (imm16Of w))
  | 0x3C#6 => .ok (.xorhi (bOf w) (aOf w) (imm16Of w))
  | op => .error (.reservedOp op)

/-- The decoder: the instruction at the head of a list of bytes, and the bytes after it. -/
def decode : List Byte → Except DecodeError (Instr × List Byte)
  | b0 :: b1 :: b2 :: b3 :: rest =>
    match decodeWord (wordOfBytes b0 b1 b2 b3) with
    | .ok i => .ok (i, rest)
    | .error e => .error e
  | _ => .error .truncated

/-! ## Encoding -/

/-- An R-type word (30_encoding.md R202). -/
def encR (a b c : RegIdx) (opx : BitVec 6) (imm5 : BitVec 5) : Word :=
  place a 27 ||| place b 22 ||| place c 17 ||| place opx 11 ||| place imm5 6 ||| place 0x3A#6 0

/-- An I-type word (30_encoding.md R201). -/
def encI (a b : RegIdx) (imm16 : BitVec 16) (op : BitVec 6) : Word :=
  place a 27 ||| place b 22 ||| place imm16 6 ||| place op 0

/-- A J-type word (30_encoding.md R203). -/
def encJ (imm26 : BitVec 26) (op : BitVec 6) : Word := place imm26 6 ||| place op 0

/-- A `custom` word (30_encoding.md R204). -/
def encCustom (n : BitVec 8) (readra readrb writerc : Bool) (c a b : RegIdx) : Word :=
  place a 27 ||| place b 22 ||| place c 17 ||| place (BitVec.ofBool readra) 16 ||| place (BitVec.ofBool readrb) 15 |||
  place (BitVec.ofBool writerc) 14 ||| place n 6 ||| place 0x32#6 0

/-- The canonical word of an instruction: its fields by 30_encoding.md R209 and R213, constant fields as R209, R210 and
R213 give them (the C of `eret` and the A of `flushp` PRESUMED 0, log 49). -/
def encode : Instr → Word
  | .ldb b a imm16 => encI a b imm16 0x07#6
  | .ldbio b a imm16 => encI a b imm16 0x27#6
  | .ldbu b a imm16 => encI a b imm16 0x03#6
  | .ldbuio b a imm16 => encI a b imm16 0x23#6
  | .ldh b a imm16 => encI a b imm16 0x0F#6
  | .ldhio b a imm16 => encI a b imm16 0x2F#6
  | .ldhu b a imm16 => encI a b imm16 0x0B#6
  | .ldhuio b a imm16 => encI a b imm16 0x2B#6
  | .ldw b a imm16 => encI a b imm16 0x17#6
  | .ldwio b a imm16 => encI a b imm16 0x37#6
  | .stb b a imm16 => encI a b imm16 0x05#6
  | .stbio b a imm16 => encI a b imm16 0x25#6
  | .sth b a imm16 => encI a b imm16 0x0D#6
  | .sthio b a imm16 => encI a b imm16 0x2D#6
  | .stw b a imm16 => encI a b imm16 0x15#6
  | .stwio b a imm16 => encI a b imm16 0x35#6
  | .add c a b => encR a b c 0x31#6 0x00#5
  | .addi b a imm16 => encI a b imm16 0x04#6
  | .sub c a b => encR a b c 0x39#6 0x00#5
  | .and c a b => encR a b c 0x0E#6 0x00#5
  | .andi b a imm16 => encI a b imm16 0x0C#6
  | .andhi b a imm16 => encI a b imm16 0x2C#6
  | .or c a b => encR a b c 0x16#6 0x00#5
  | .ori b a imm16 => encI a b imm16 0x14#6
  | .orhi b a imm16 => encI a b imm16 0x34#6
  | .xor c a b => encR a b c 0x1E#6 0x00#5
  | .xori b a imm16 => encI a b imm16 0x1C#6
  | .xorhi b a imm16 => encI a b imm16 0x3C#6
  | .nor c a b => encR a b c 0x06#6 0x00#5
  | .mul c a b => encR a b c 0x27#6 0x00#5
  | .muli b a imm16 => encI a b imm16 0x24#6
  | .mulxss c a b => encR a b c 0x1F#6 0x00#5
  | .mulxsu c a b => encR a b c 0x17#6 0x00#5
  | .mulxuu c a b => encR a b c 0x07#6 0x00#5
  | .div c a b => encR a b c 0x25#6 0x00#5
  | .divu c a b => encR a b c 0x24#6 0x00#5
  | .cmpeq c a b => encR a b c 0x20#6 0x00#5
  | .cmpne c a b => encR a b c 0x18#6 0x00#5
  | .cmpge c a b => encR a b c 0x08#6 0x00#5
  | .cmpgeu c a b => encR a b c 0x28#6 0x00#5
  | .cmplt c a b => encR a b c 0x10#6 0x00#5
  | .cmpltu c a b => encR a b c 0x30#6 0x00#5
  | .cmpeqi b a imm16 => encI a b imm16 0x20#6
  | .cmpnei b a imm16 => encI a b imm16 0x18#6
  | .cmpgei b a imm16 => encI a b imm16 0x08#6
  | .cmpgeui b a imm16 => encI a b imm16 0x28#6
  | .cmplti b a imm16 => encI a b imm16 0x10#6
  | .cmpltui b a imm16 => encI a b imm16 0x30#6
  | .rol c a b => encR a b c 0x03#6 0x00#5
  | .roli c a imm5 => encR a 0x00#5 c 0x02#6 imm5
  | .ror c a b => encR a b c 0x0B#6 0x00#5
  | .sll c a b => encR a b c 0x13#6 0x00#5
  | .slli c a imm5 => encR a 0x00#5 c 0x12#6 imm5
  | .srl c a b => encR a b c 0x1B#6 0x00#5
  | .srli c a imm5 => encR a 0x00#5 c 0x1A#6 imm5
  | .sra c a b => encR a b c 0x3B#6 0x00#5
  | .srai c a imm5 => encR a 0x00#5 c 0x3A#6 imm5
  | .br imm16 => encI 0x00#5 0x00#5 imm16 0x06#6
  | .call imm26 => encJ imm26 0x00#6
  | .callr a => encR a 0x00#5 0x1F#5 0x1D#6 0x00#5
  | .jmp a => encR a 0x00#5 0x00#5 0x0D#6 0x00#5
  | .jmpi imm26 => encJ imm26 0x01#6
  | .ret => encR 0x1F#5 0x00#5 0x00#5 0x05#6 0x00#5
  | .nextpc c => encR 0x00#5 0x00#5 c 0x1C#6 0x00#5
  | .beq a b imm16 => encI a b imm16 0x26#6
  | .bne a b imm16 => encI a b imm16 0x1E#6
  | .bge a b imm16 => encI a b imm16 0x0E#6
  | .bgeu a b imm16 => encI a b imm16 0x2E#6
  | .blt a b imm16 => encI a b imm16 0x16#6
  | .bltu a b imm16 => encI a b imm16 0x36#6
  | .trap imm5 => encR 0x00#5 0x00#5 0x1D#5 0x2D#6 imm5
  | .eret => encR 0x1D#5 0x1E#5 0x00#5 0x01#6 0x00#5
  | .bret => encR 0x1E#5 0x00#5 0x1E#5 0x09#6 0x00#5
  | .brk imm5 => encR 0x00#5 0x00#5 0x1E#5 0x34#6 imm5
  | .rdctl c n => encR 0x00#5 0x00#5 c 0x26#6 n
  | .wrctl n a => encR a 0x00#5 0x00#5 0x2E#6 n
  | .flushd a imm16 => encI a 0x00#5 imm16 0x3B#6
  | .flushda a imm16 => encI a 0x00#5 imm16 0x1B#6
  | .initd a imm16 => encI a 0x00#5 imm16 0x33#6
  | .initda a imm16 => encI a 0x00#5 imm16 0x13#6
  | .flushi a => encR a 0x00#5 0x00#5 0x0C#6 0x00#5
  | .initi a => encR a 0x00#5 0x00#5 0x29#6 0x00#5
  | .flushp => encR 0x00#5 0x00#5 0x00#5 0x04#6 0x00#5
  | .sync => encR 0x00#5 0x00#5 0x00#5 0x36#6 0x00#5
  | .rdprs b a imm16 => encI a b imm16 0x38#6
  | .wrprs c a => encR a 0x00#5 c 0x14#6 0x00#5
  | .custom n readra readrb writerc c a b => encCustom n readra readrb writerc c a b

/-- Whether a word that decodes to `i` has the constant fields of the tables (30_encoding.md R212). -/
def canonical (i : Instr) (w : Word) : Bool := encode i == w

/-- The instruction the decoder reads from an instruction whose `nbits` table bits are `w`: bit 0 the least significant
bit of the word, every bit above `nbits` 0. -/
def decodeTableWord (nbits w : Nat) : Option Instr :=
  match decode (bytesOfWord (BitVec.ofNat 32 (w % 2 ^ nbits))) with
  | .ok (i, _) => some i
  | .error _ => none

end Sys2Proof
end

