-- ==== Sys2Proof/Machine/Memory.lean ====
section
/-! DEFINITION. Memory as a list of (address, byte) pairs in one canonical form: addresses strictly rising, no entry
equal to what an unlisted address reads as (20_memory.md R100). The same form, for another kind of entry, holds the ECC
marks. -/

namespace Sys2Proof

/-- What the list holds at `k`: its entry, or `d` where there is none. -/
def sparseGet {α : Type} (d : α) : List (Nat × α) → Nat → α
  | [], _ => d
  | (j, v) :: rest, k => if k = j then v else sparseGet d rest k

/-- The list with `v` at `k`: an entry, or no entry where `v` is `d`. -/
def sparseSet {α : Type} [DecidableEq α] (d : α) : List (Nat × α) → Nat → α → List (Nat × α)
  | [], k, v => if v = d then [] else [(k, v)]
  | (j, w) :: rest, k, v =>
    if k < j then (if v = d then (j, w) :: rest else (k, v) :: (j, w) :: rest)
    else if k = j then (if v = d then rest else (k, v) :: rest)
    else (j, w) :: sparseSet d rest k v

/-- The canonical form: keys strictly rising, no entry equal to `d`. -/
def sparseWf {α : Type} [DecidableEq α] (d : α) : List (Nat × α) → Bool
  | [] => true
  | (j, w) :: rest => !decide (w = d) && rest.all (fun e => decide (j < e.1)) && sparseWf d rest

/-- The bytes of memory, keyed by physical address. -/
abbrev Memory := List Host.Cell

/-- What a byte that nothing has written reads as (DESIGN CHOICE, log 9). -/
def Memory.unlisted : Byte := 0#8

/-- The byte at an address (20_memory.md R100). -/
def Memory.read (m : Memory) (a : Nat) : Byte := sparseGet Memory.unlisted m a

/-- Memory with the byte at `a` replaced by `b`. -/
def Memory.write (m : Memory) (a : Nat) (b : Byte) : Memory := sparseSet Memory.unlisted m a b

/-- Memory with the bytes `bs` stored from `a` up. -/
def Memory.writeBytes (m : Memory) (a : Nat) : List Byte → Memory
  | [] => m
  | b :: bs => Memory.writeBytes (m.write a b) (a + 1) bs

/-- The canonical memory of any list of cells, a later cell winning. -/
def Memory.ofCells (cs : List Host.Cell) : Memory := cs.foldl (fun m c => m.write c.1 c.2) []

/-- The canonical form of memory. -/
def Memory.wf (m : Memory) : Bool := sparseWf Memory.unlisted m

end Sys2Proof
end

