-- ==== Sys2Proof/Config.lean ====
section
/-! DEFINITION. What one implementation of the Nios II fixes (00_scope.md R7), as plain data, and the free values: the
uninterpreted constants that stand for what the spec leaves open (log 13). -/

namespace Sys2Proof

/-- The core variant (00_scope.md R6). -/
inductive CoreKind where
  /-- Nios II/f, the fast core: every optional unit. -/
  | f
  /-- Nios II/e, the economy core: no optional unit. -/
  | e
deriving DecidableEq, Repr

/-- The multiply hardware HW_MUL (00_scope.md R7, 70_reset_and_hazards.md R551). -/
inductive MulKind where
  | none
  /-- `mul` and `muli` only. -/
  | mul
  /-- `mul`, `muli`, `mulxss`, `mulxsu`, `mulxuu`. -/
  | mulx
deriving DecidableEq, Repr

/-- The permission an MPU asks of `flushda` and `initda`, MPU_CACHEOP_PERM (21_mmu_mpu.md R176, D13). -/
inductive CacheOpPerm where
  | none
  | read
  | write
deriving DecidableEq, Repr

/-- What a range of the platform's memory map holds (20_memory.md R105). -/
inductive RegionKind where
  /-- Memory: a read gives the last byte written. -/
  | ram
  /-- A peripheral: its reads give values this model leaves free, its writes reach no state of the model (log 21). -/
  | device
deriving DecidableEq, Repr

/-- One range of the memory map, or a tightly-coupled memory: `size` bytes from `base` (20_memory.md R103, R105). -/
structure Span where
  base : Nat
  size : Nat
deriving DecidableEq, Repr

/-- One line of the platform's memory map (20_memory.md R105). -/
structure MapEntry where
  span : Span
  kind : RegionKind
deriving DecidableEq, Repr

/-- The parameter record of 00_scope.md R7, under the spec's names. The accessors of Machine/Params.lean, not
the raw fields, apply the constraints that R7 puts between parameters. -/
structure Config where
  coreKind        : CoreKind
  hasMmu          : Bool
  hasMpu          : Bool
  hasEic          : Bool
  hasEcc          : Bool
  numShadow       : Nat
  hwMul           : MulKind
  hwDiv           : Bool
  hwInitda        : Bool
  checkIllegal    : Bool
  checkMisaligned : Bool
  checkDivErr     : Bool
  cpuId           : Word
  resetAddr       : Word
  exceptionAddr   : Word
  breakAddr       : Word
  fastTlbMissAddr : Word
  icacheBytes     : Nat
  dcacheBytes     : Nat
  bit31Bypass     : Bool
  periphRegion    : Option Span
  itcm            : List Span
  dtcm            : List Span
  iaddrBits       : Nat
  daddrBits       : Nat
  tlbEntries      : Nat
  tlbWays         : Nat
  pidBits         : Nat
  mpuUseLimit     : Bool
  mpuNumIRegions  : Nat
  mpuNumDRegions  : Nat
  mpuMinIRegion   : Nat
  mpuMinDRegion   : Nat
  mpuCacheOpPerm  : CacheOpPerm
  /-- INTERNAL_ENCODINGS: reserved words the core uses itself (30_encoding.md R211, D15). -/
  internalWords   : List Word
  /-- Whether a word with non-canonical constant fields runs as the canonical instruction (30_encoding.md R212, D16, U27:
  the spec decodes by OP and OPX alone and lets a model refuse the word or take its effect as a parameter; this is that
  parameter, log 36). -/
  nonCanonicalRuns : Bool
  /-- Whether a load to register 0 of a shadow set changes it. 40_data_transfer.md R259(d) says that it does; 10_state.md R25 and
  46_other_control.md R412 say that only `wrprs` does; 90_conflicts.md does not name the conflict (log 38). -/
  loadsWriteShadowR0 : Bool
  hasDebug        : Bool
  hasDebugReq     : Bool
  hasCpuResetRequest : Bool
  memoryMap       : List MapEntry
deriving DecidableEq, Repr

/-- The configuration of 95_test_vectors.md section 0, whose parameters are the defaults of 00_scope.md R7 and D1
where those exist; the rest is a DESIGN CHOICE (log 1). -/
def Config.default : Config where
  coreKind        := .f
  hasMmu          := false
  hasMpu          := false
  hasEic          := false
  hasEcc          := false
  numShadow       := 0
  hwMul           := .mulx
  hwDiv           := true
  hwInitda        := true
  checkIllegal    := true
  checkMisaligned := true
  checkDivErr     := true
  cpuId           := 0x00000000#32
  resetAddr       := 0x00000000#32
  exceptionAddr   := 0x00000020#32
  breakAddr       := 0x00000040#32
  fastTlbMissAddr := 0x00000100#32
  icacheBytes     := 0
  dcacheBytes     := 0
  bit31Bypass     := true
  periphRegion    := Option.none
  itcm            := []
  dtcm            := []
  iaddrBits       := 31
  daddrBits       := 31
  tlbEntries      := 256
  tlbWays         := 16
  pidBits         := 8
  mpuUseLimit     := false
  mpuNumIRegions  := 2
  mpuNumDRegions  := 2
  mpuMinIRegion   := 256
  mpuMinDRegion   := 256
  mpuCacheOpPerm  := .none
  internalWords   := []
  nonCanonicalRuns := true
  loadsWriteShadowR0 := false
  hasDebug        := true
  hasDebugReq     := true
  hasCpuResetRequest := true
  memoryMap       := [{ span := { base := 0, size := 0x100000000 }, kind := .ram }]

/-! ## Free values

Each is a constant with no body: no proof can learn what it is, so a claim holds whatever the hardware does there.
The first argument is the draw number, the counter of State that every draw advances (log 13). -/

/-- A free 32-bit value. -/
opaque Config.freeWord : Nat → Word

/-- A free byte: draw number, position in the access. -/
opaque Config.freeByte : Nat → Nat → Byte

/-- A free choice: draw number, position. -/
opaque Config.freeBool : Nat → Nat → Bool

/-- A free 32-bit value of an array: draw number, position (10_state.md R77). -/
opaque Config.freeWordAt : Nat → Nat → Word

/-- The contents of memory after a reset: draw number (70_reset_and_hazards.md R520). -/
opaque Config.freeMemory : Nat → List Host.Cell

/-- A free natural number. -/
opaque Config.freeNat : Nat → Nat

/-- What the core presents to the custom-instruction logic: N, the two register values, the fields A, B, C, the three
select bits and the logic's own state (47_custom_nop.md R420). -/
structure CustomCall where
  n       : BitVec 8
  valA    : Word
  valB    : Word
  a       : RegIdx
  b       : RegIdx
  c       : RegIdx
  readra  : Bool
  readrb  : Bool
  writerc : Bool
  logic   : Nat
deriving DecidableEq, Repr

/-- The result of the custom-instruction logic, `custom_fn` (47_custom_nop.md R420, log 12). -/
opaque Config.customResult : CustomCall → Word

/-- The state of the custom-instruction logic afterwards (47_custom_nop.md R420, log 12). -/
opaque Config.customNext : CustomCall → Nat

end Sys2Proof
end

