-- ==== Sys2Proof/Machine/Params.lean ====
section
/-! DEFINITION. The parameters as 00_scope.md R7 constrains them, and what else follows from a configuration alone: the
vector addresses and the kind of every physical address. -/

namespace Sys2Proof

/-- Whether `n` is a power of two from `2 ^ lo` to `2 ^ hi`. -/
def powerOfTwo (lo hi n : Nat) : Bool := (List.range (hi + 1 - lo)).any (fun k => n == 2 ^ (lo + k))

/-- The constraints of 00_scope.md R7 on a configuration: MMU and MPU exclude each other; vectors are word aligned,
and in low memory with an MMU (21_mmu_mpu.md R153); caches are absent or a power of two from 512 to 65536 bytes; the
TLB has at most 16 ways; PID 8 to 14 bits; at most 63 shadow sets; the peripheral region has size 0 or is a power of two
from 4096 bytes to 2 GB at a base aligned to its size (20_memory.md R122); the minimum MPU region sizes are powers of two
from 256 bytes to 1 MB; with an MMU tightly-coupled memories are in the kernel partition (20_memory.md R103), whose physical
addresses are below 512 MB (21_mmu_mpu.md R153). -/
def Config.wf (c : Config) : Bool :=
  !(c.hasMmu && c.hasMpu)
  && c.resetAddr.extractLsb' 0 2 == 0#2 && c.exceptionAddr.extractLsb' 0 2 == 0#2
  && c.breakAddr.extractLsb' 0 2 == 0#2 && c.fastTlbMissAddr.extractLsb' 0 2 == 0#2
  && (!c.hasMmu || (c.resetAddr.toNat < 0x20000000 && c.exceptionAddr.toNat < 0x20000000
        && c.breakAddr.toNat < 0x20000000 && c.fastTlbMissAddr.toNat < 0x20000000))
  && decide (c.icacheBytes ∈ [0, 512, 1024, 2048, 4096, 8192, 16384, 32768, 65536])
  && decide (c.dcacheBytes ∈ [0, 512, 1024, 2048, 4096, 8192, 16384, 32768, 65536])
  && decide (1 ≤ c.tlbWays ∧ c.tlbWays ≤ 16 ∧ 8 ≤ c.pidBits ∧ c.pidBits ≤ 14 ∧ c.numShadow ≤ 63)
  && decide (c.iaddrBits ≤ 32 ∧ c.daddrBits ≤ 32)
  && decide (2 ≤ c.mpuNumIRegions ∧ c.mpuNumIRegions ≤ 32 ∧ 2 ≤ c.mpuNumDRegions ∧ c.mpuNumDRegions ≤ 32)
  && decide (c.itcm.length ≤ 4 ∧ c.dtcm.length ≤ 4)
  && (!c.hasMmu || (c.itcm ++ c.dtcm).all (fun t => decide (t.base + t.size ≤ 0x20000000)))
  && (match c.periphRegion with
      | some g => g.size == 0 || (powerOfTwo 12 31 g.size && g.base % g.size == 0)
      | Option.none => true)
  && powerOfTwo 8 20 c.mpuMinIRegion && powerOfTwo 8 20 c.mpuMinDRegion

/-- Whether the core is the fast core, which alone has optional units (00_scope.md R6). -/
def Config.isF (c : Config) : Bool := c.coreKind == .f

/-- HAS_MMU as R7 constrains it: never on Nios II/e. -/
def Config.mmu (c : Config) : Bool := c.isF && c.hasMmu

/-- HAS_MPU as R7 constrains it: never on Nios II/e, never with an MMU. -/
def Config.mpu (c : Config) : Bool := c.isF && c.hasMpu && !c.hasMmu

/-- HAS_EIC as R7 constrains it. -/
def Config.eic (c : Config) : Bool := c.isF && c.hasEic

/-- HAS_ECC as R7 constrains it. -/
def Config.ecc (c : Config) : Bool := c.isF && c.hasEcc

/-- NUM_SHADOW as R7 constrains it. -/
def Config.shadowSets (c : Config) : Nat := if c.isF then c.numShadow else 0

/-- `implemented(mul)` and `implemented(muli)` (41_arith_logic.md R293). -/
def Config.mulImplemented (c : Config) : Bool := c.isF && (c.hwMul == .mul || c.hwMul == .mulx)

/-- `implemented(mulxss)`, `implemented(mulxsu)`, `implemented(mulxuu)` (41_arith_logic.md R293). -/
def Config.mulxImplemented (c : Config) : Bool := c.isF && c.hwMul == .mulx

/-- `implemented(div)` and `implemented(divu)` (41_arith_logic.md R293). -/
def Config.divImplemented (c : Config) : Bool := c.isF && c.hwDiv

/-- HW_INITDA, false on Nios II/e (46_other_control.md R403, D14). -/
def Config.initdaImplemented (c : Config) : Bool := c.isF && c.hwInitda

/-- CHECK_ILLEGAL, forced true with an MMU or MPU (00_scope.md R7, D6). -/
def Config.illegalChecked (c : Config) : Bool := c.checkIllegal || c.mmu || c.mpu

/-- CHECK_MISALIGNED, Nios II/f only, forced true with an MMU or MPU (00_scope.md R7, 20_memory.md R108). -/
def Config.misalignedChecked (c : Config) : Bool := (c.isF && c.checkMisaligned) || c.mmu || c.mpu

/-- CHECK_DIVERR, which needs the divide hardware (41_arith_logic.md R294). -/
def Config.divErrChecked (c : Config) : Bool := c.divImplemented && c.checkDivErr

/-- ICACHE_BYTES, absent on Nios II/e. -/
def Config.icacheSize (c : Config) : Nat := if c.isF then c.icacheBytes else 0

/-- DCACHE_BYTES, absent on Nios II/e. -/
def Config.dcacheSize (c : Config) : Nat := if c.isF then c.dcacheBytes else 0

/-- BIT31_BYPASS, which exists on Nios II/f without an MMU (20_memory.md R104, R121). -/
def Config.bypass31 (c : Config) : Bool := c.isF && !c.hasMmu && c.bit31Bypass

/-- Whether the model holds prefetched words: on a core with a cache, the caches being modelled explicitly (20_memory.md
R137 option (a), U8); a core without caches fetches each word as it executes it (option (b), D10, log 39). -/
def Config.prefetches (c : Config) : Bool := c.icacheSize != 0 || c.dcacheSize != 0

/-- The instruction tightly-coupled memories, Nios II/f only (20_memory.md R103). -/
def Config.itcms (c : Config) : List Span := if c.isF then c.itcm else []

/-- The data tightly-coupled memories, Nios II/f only (20_memory.md R103). -/
def Config.dtcms (c : Config) : List Span := if c.isF then c.dtcm else []

/-- TLB_LINES = TLB_ENTRIES / TLB_WAYS (21_mmu_mpu.md R155). -/
def Config.tlbLines (c : Config) : Nat := c.tlbEntries / c.tlbWays

/-- Whether `a` lies in the range. -/
def Span.has (r : Span) (a : Nat) : Bool := decide (r.base ≤ a) && decide (a < r.base + r.size)

/-- `Vector(v)`: a vector parameter is a physical address; with an MMU the processor runs at its kernel-partition alias
(60_exceptions.md R450, 21_mmu_mpu.md R153, log 47). -/
def Config.vector (c : Config) (v : Word) : Word := if c.mmu then 0xC0000000#32 ||| (v &&& 0x1FFFFFFF#32) else v

/-- DADDR_BITS: at most 32, at most 31 where bit 31 selects the cache bypass (00_scope.md R7, 20_memory.md R104). -/
def Config.daddrWidth (c : Config) : Nat := min (if c.bypass31 then 31 else 32) c.daddrBits

/-- IADDR_BITS: at most 32, at most 31 with the bit-31 cache bypass (00_scope.md R7, 20_memory.md R104). -/
def Config.iaddrWidth (c : Config) : Nat := min (if c.bypass31 then 31 else 32) c.iaddrBits

/-- How many physical lines a tag of a cache of `n` lines tells apart by the index: with an MMU "the tag field always includes
all the bits of the PFN" (20_memory.md R125), so at most the 128 lines of a page. -/
def Config.tagUnit (c : Config) (n : Nat) : Nat := if c.mmu then min n 128 else n

/-- `tagUnit` of the data cache. -/
def Config.dtagUnit (c : Config) : Nat := c.tagUnit (c.dcacheSize / 32)

/-- `tagUnit` of the instruction cache. -/
def Config.itagUnit (c : Config) : Nat := c.tagUnit (c.icacheSize / 32)

/-- Whether `n` address bits can hold the address `a`. -/
def inWidth (n a : Nat) : Bool := decide (a < 2 ^ n)

/-- What the platform has at a physical address: the first range of the memory map that holds it; nothing where no
range does (20_memory.md R105). -/
def Config.kindAt (c : Config) (a : Nat) : Option RegionKind :=
  match c.memoryMap.find? (fun e => e.span.has a) with
  | some e => some e.kind
  | Option.none => Option.none

/-- Whether a tightly-coupled memory of the list holds the address (20_memory.md R103). -/
def inTcm (ts : List Span) (a : Nat) : Bool := ts.any (fun t => t.has a)

/-- Whether a data access at a physical address reaches memory: inside the implemented data address width and in a RAM
range or a data tightly-coupled memory (20_memory.md R103, R104, R105, D9). The data master has no port to an instruction
tightly-coupled memory, so at an address that only one of those holds there is nothing (log 54). -/
def Config.dataRam (c : Config) (a : Nat) : Bool :=
  inWidth c.daddrWidth a && (c.kindAt a == some .ram || inTcm c.dtcms a)

/-- Whether a fetch at a physical address reaches memory: inside the implemented instruction address width and in a RAM
range or an instruction tightly-coupled memory (20_memory.md R101, R103, R104, R105, D9); a data one alone is out of its
reach (log 54). -/
def Config.fetchRam (c : Config) (a : Nat) : Bool :=
  inWidth c.iaddrWidth a && (c.kindAt a == some .ram || inTcm c.itcms a)

/-- Whether the platform has a memory or a peripheral at the physical address of a data access; a load elsewhere gives "an
undefined result" (20_memory.md R104, R105, U4). -/
def Config.dataMapped (c : Config) (a : Nat) : Bool :=
  inWidth c.daddrWidth a && ((c.kindAt a).isSome || inTcm c.dtcms a)

/-- Whether a tightly-coupled memory holds the address: a cache fill or write-back there does not reach it (20_memory.md
R103, R135). -/
def Config.tightlyCoupled (c : Config) (a : Nat) : Bool := inTcm c.itcms a || inTcm c.dtcms a

/-- Whether a line fill or a write-back of the data cache at a physical address reaches memory: as a data access, but
never in a tightly-coupled memory (20_memory.md R103, R135). -/
def Config.dlineRam (c : Config) (a : Nat) : Bool := c.dataRam a && !c.tightlyCoupled a

/-- Whether a line fill of the instruction cache at a physical address reaches memory: as a fetch, but never in a
tightly-coupled memory (20_memory.md R103). -/
def Config.ilineRam (c : Config) (a : Nat) : Bool := c.fetchRam a && !c.tightlyCoupled a

/-- The indices at which the instruction cache may hold the word at the physical address `4 * k`: more than one where the index
has bits above a page's (20_memory.md R132, R136), none in a tightly-coupled memory (R103). -/
def Config.ihomes (c : Config) (k : Nat) : List Nat :=
  if c.tightlyCoupled (4 * k) then []
  else (List.range (c.icacheSize / 32)).filter (fun i => i % c.itagUnit == k / 8 % c.itagUnit)

end Sys2Proof
end

