-- ==== Sys2Proof/Machine/Status.lean ====
section
/-! DEFINITION. The fields of `status`, `estatus`, `bstatus` and `sstatus` (10_state.md R30), and which of them a
configuration implements. -/

namespace Sys2Proof

/-! ## Fields (10_state.md R30) -/

/-- RSIE, bit 23. -/
def stRsie (w : Word) : Bool := bit w 23
/-- NMI, bit 22. -/
def stNmi (w : Word) : Bool := bit w 22
/-- PRS, bits 21:16. -/
def stPrs (w : Word) : BitVec 6 := field w 16 6
/-- CRS, bits 15:10. -/
def stCrs (w : Word) : BitVec 6 := field w 10 6
/-- IL, bits 9:4. -/
def stIl (w : Word) : BitVec 6 := field w 4 6
/-- IH, bit 3. -/
def stIh (w : Word) : Bool := bit w 3
/-- EH, bit 2. -/
def stEh (w : Word) : Bool := bit w 2
/-- U, bit 1. -/
def stU (w : Word) : Bool := bit w 1
/-- PIE, bit 0. -/
def stPie (w : Word) : Bool := bit w 0

/-- `w` with RSIE set to `v`. -/
def setRsie (v : Bool) (w : Word) : Word := setBit w 23 v
/-- `w` with NMI set to `v`. -/
def setNmi (v : Bool) (w : Word) : Word := setBit w 22 v
/-- `w` with PRS set to `v`. -/
def setPrs (v : BitVec 6) (w : Word) : Word := setField w 16 6 v
/-- `w` with CRS set to `v`. -/
def setCrs (v : BitVec 6) (w : Word) : Word := setField w 10 6 v
/-- `w` with IL set to `v`. -/
def setIl (v : BitVec 6) (w : Word) : Word := setField w 4 6 v
/-- `w` with IH set to `v`. -/
def setIh (v : Bool) (w : Word) : Word := setBit w 3 v
/-- `w` with EH set to `v`. -/
def setEh (v : Bool) (w : Word) : Word := setBit w 2 v
/-- `w` with U set to `v`. -/
def setU (v : Bool) (w : Word) : Word := setBit w 1 v
/-- `w` with PIE set to `v`. -/
def setPie (v : Bool) (w : Word) : Word := setBit w 0 v

/-! ## What is implemented -/

/-- A register-set number of as many low bits as `n`, the number of shadow sets, needs: "the number of significant bits
needed to represent n-1" for n register sets (10_state.md R33, R34). -/
def setNumberMask (n : Nat) : BitVec 6 :=
  if n = 0 then 0#6 else if n < 2 then 1#6 else if n < 4 then 3#6 else if n < 8 then 7#6
  else if n < 16 then 15#6 else if n < 32 then 31#6 else 63#6

/-- EH is implemented with an MMU or with ECC (10_state.md R37). -/
def Config.hasEh (c : Config) : Bool := c.mmu || c.ecc

/-- U is implemented with an MMU or an MPU (10_state.md R38). -/
def Config.hasU (c : Config) : Bool := c.mmu || c.mpu

/-- RSIE is implemented with both the EIC interface and shadow register sets (10_state.md R31). -/
def Config.hasRsie (c : Config) : Bool := c.eic && decide (0 < c.shadowSets)

/-- The bit pattern of a flag's position, or 0 where the flag is not implemented. -/
def flagMask (on : Bool) (n : Nat) : Word := place (BitVec.ofBool on) n

/-- The implemented bits of `status` (10_state.md R30). -/
def Config.statusMask (c : Config) : Word :=
  flagMask c.hasRsie 23 ||| flagMask c.eic 22 |||
  place (setNumberMask c.shadowSets) 16 ||| place (setNumberMask c.shadowSets) 10 |||
  (if c.eic then 0x000003F8#32 else 0#32) ||| flagMask c.hasEh 2 ||| flagMask c.hasU 1 ||| flagMask true 0

/-- What an unimplemented field reads: RSIE "always reads as 1" (10_state.md R31), every other 0. -/
def Config.statusFixed (c : Config) : Word := flagMask (!c.hasRsie) 23

/-- A word as a status register holds it: unimplemented and reserved bits forced to what they read
(10_state.md R30, R42). -/
def Config.normStatus (c : Config) (w : Word) : Word := (w &&& c.statusMask) ||| c.statusFixed

/-- The bits of `status` that `wrctl` writes: all implemented ones but NMI and CRS (10_state.md R40). -/
def Config.statusWritable (c : Config) : Word := c.statusMask &&& 0xFFBF03FF#32

/-- The value of `status` after reset (10_state.md R41). -/
def resetStatus : Word := 0x00800000#32

end Sys2Proof
end

