-- ==== Sys2Proof/Machine/State.lean ====
section
/-! DEFINITION. The state of the machine: every register of 10_state.md, the hidden state of R76, memory, and the inputs
of the environment; the reasons a step can stop; the machine after reset. -/

namespace Sys2Proof.Machine

open Sys2Proof

/-- An ECC error waiting in a RAM word (60_exceptions.md R491, R495). The state holds the word's data as the RAM does, with
the wrong bits; the mark says what its check bits tell of them. -/
inductive EccMark where
  | none
  /-- A 1-bit error: bit `k` is wrong, counted from the lowest data bit; past the data bits it is a check bit. -/
  | single (k : Nat)
  /-- An error of 2 bits. -/
  | double
deriving DecidableEq, Repr

/-- The 32 registers of one register set (10_state.md R20, R23). -/
abbrev RegFile := Vector Word 32

/-- One entry of the main TLB (21_mmu_mpu.md R155). `tag` is VPN / TLB_LINES. -/
structure TlbEntry where
  tag : Nat
  pid : BitVec 14
  g   : Bool
  pfn : BitVec 20
  c   : Bool
  r   : Bool
  w   : Bool
  x   : Bool
  ecc : EccMark
deriving DecidableEq, Repr

/-- One region of the MPU (21_mmu_mpu.md R170). `lim` is MASK or LIMIT. -/
structure MpuRegion where
  base : BitVec 24
  lim  : BitVec 24
  mt   : BitVec 2
  perm : BitVec 3
deriving DecidableEq, Repr

/-- One line of the instruction or the data cache (20_memory.md R125, R132). `line` is the physical line address,
paddr / 32, that the stored tag and the line index name; an instruction line is never dirty. `stored` is the MODEL's own: an
instruction has stored in the line since it was filled, which tells it from a dirty line that reset left (log 39). -/
structure CacheLine where
  valid   : Bool
  dirty   : Bool
  stored  : Bool
  line    : Nat
  data    : List Byte
  tagEcc  : EccMark
  dataEcc : EccMark
deriving DecidableEq, Repr

/-- The latched request of the external interrupt controller (60_exceptions.md R443, R444). -/
structure EicRequest where
  rha  : Word
  rrs  : BitVec 6
  ril  : BitVec 6
  rnmi : Bool
deriving DecidableEq, Repr

/-- The state of the machine. Control registers hold what `rdctl` reads, except where an accessor says otherwise. -/
structure State where
  /-- The configuration, changed by no step (00_scope.md R7). -/
  cfg : Config
  /-- The address of the instruction being executed (10_state.md R26). -/
  pc : Word
  /-- The normal register set; its entry 0 is never read (10_state.md R20, R21). -/
  gpr : RegFile
  /-- The shadow register sets 1, 2, … (10_state.md R23). -/
  shadow : List RegFile
  /-- Control register 0 (10_state.md R30). -/
  status : Word
  /-- Control register 1 (10_state.md R42). -/
  estatus : Word
  /-- Control register 2 (10_state.md R43). -/
  bstatus : Word
  /-- Control register 3 (10_state.md R44). -/
  ienable : Word
  /-- Control register 7 (10_state.md R48). -/
  exception : Word
  /-- Control register 8 (10_state.md R49). -/
  pteaddr : Word
  /-- Control register 9 (10_state.md R50). -/
  tlbacc : Word
  /-- Control register 10 (10_state.md R51). -/
  tlbmisc : Word
  /-- Control register 11 (10_state.md R68). -/
  eccinj : Word
  /-- The old values that `rdctl eccinj` may still return, field by field, 0 where none: injections of the data side done
  since the pipeline was last flushed (70_reset_and_hazards.md R543). -/
  eccinjOld : Word
  /-- Control register 12 (10_state.md R60). -/
  badaddr : Word
  /-- Control register 13 (10_state.md R61). -/
  config : Word
  /-- Control register 14 (10_state.md R62). -/
  mpubase : Word
  /-- Control register 15 (10_state.md R63). -/
  mpuacc : Word
  /-- The main TLB: entry (line, way) at position line * TLB_WAYS + way (21_mmu_mpu.md R155). -/
  tlb : List TlbEntry
  /-- The instruction regions of the MPU (21_mmu_mpu.md R170). -/
  iregions : List MpuRegion
  /-- The data regions of the MPU (21_mmu_mpu.md R170). -/
  dregions : List MpuRegion
  /-- The instruction cache (20_memory.md R132). -/
  icache : List CacheLine
  /-- The data cache (20_memory.md R125). -/
  dcache : List CacheLine
  /-- The old words that the pipeline may still hold, keyed by physical address / 4, each with the index of the instruction cache
  line that it was fetched by, 0 where no line may hold it: what memory or a line held there at some time since the pipeline was
  last flushed (10_state.md R76, 20_memory.md R133, R145, U8; log 39). -/
  prefetched : List (Nat × List (Nat × Word))
  /-- The old words that the instruction cache may still hold although the lines of `icache` do not show them, keyed by physical
  address / 4, each with the index of the line: memory held them there before a write, and instruction memory "may be read
  ahead of execution", a line at a time (20_memory.md R101, R132, R133, U8; log 39). -/
  readAhead : List (Nat × List (Nat × Word))
  /-- Memory, by physical address (20_memory.md R100). -/
  mem : Memory
  /-- The inputs irq0 to irq31 (60_exceptions.md R442). -/
  irq : Word
  /-- The latched EIC request (60_exceptions.md R444). -/
  eic : EicRequest
  /-- The `reset` input (70_reset_and_hazards.md R520). -/
  resetPin : Bool
  /-- The `cpu_resetrequest` input (70_reset_and_hazards.md R522). -/
  cpuResetRequest : Bool
  /-- The `reset_req` input: "no program-visible effect beyond `Reset()`" (00_scope.md R5, 70_reset_and_hazards.md
  R521). -/
  resetReq : Bool
  /-- A hardware-break request of the debug module (60_exceptions.md R461). -/
  hwBreak : Bool
  /-- The `debugreq` input (60_exceptions.md R507). -/
  debugReq : Bool
  /-- The processor is paused under the debug module (60_exceptions.md R460, R507). -/
  debugMode : Bool
  /-- ECC errors in the register file, keyed by 32 * set + register (60_exceptions.md R491): one mark for a register, whichever of the
two operand ports reads it (DESIGN CHOICE, log 44). -/
  rfEcc : List (Nat × EccMark)
  /-- ECC errors in tightly-coupled memory, keyed by physical address / 4 (60_exceptions.md R491). -/
  tcmEcc : List (Nat × EccMark)
  /-- A writeback error found and not yet reported (60_exceptions.md R493). -/
  wbError : Bool
  /-- The signals of `ecc_event_bus` raised by the last step (60_exceptions.md R496). -/
  eccBus : BitVec 30
  /-- The state of the custom-instruction logic (47_custom_nop.md R420). -/
  customState : Nat
  /-- The MODEL's own: how many free values have been drawn (log 13). -/
  draws : Nat
deriving DecidableEq, Repr

/-- Why the machine stops. Each row is a `stuck` of 93_implementation_defined.md: the spec gives no successor state, so
stopping is safe. -/
inductive Fault where
  /-- Raised by the step when `status.CRS`, and by `rdprs` and `wrprs` when `status.PRS`, names an unimplemented register
  set: "Processor behavior is undefined" (U1). Safe. -/
  | unimplementedRegisterSet
  /-- Raised by the step when EH and U are both one: "illegal and causes undefined results" (U2). Safe. -/
  | exceptionModeInUserMode
  /-- Raised by `wrctl mpuacc` with RD and WR both one: "results in undefined behavior" (U3). Safe. -/
  | mpuReadAndWrite
  /-- Raised by a transfer to a target that is not a multiple of 4 when the check is off (U6). Safe. -/
  | misalignedTransfer
  /-- Raised by the fetch when `pc` is not a multiple of 4, which only an EIC handler address or a vector parameter that
  is no instruction address can bring about (20_memory.md R109, U6). Safe. -/
  | misalignedFetch
  /-- Raised by a TLB lookup that more than one entry matches: "The hardware behavior is undefined" (U9). Safe. -/
  | multipleTlbMatch
  /-- Raised by an MPU check that meets a region whose base is not aligned to its size: "the behavior is undefined"
  (U11). Safe. -/
  | misalignedMpuRegion
  /-- Raised by an MPU check decided by a region with a reserved PERM: "the resulting behavior is undefined" (U13).
  Safe. -/
  | reservedMpuPermission
  /-- Raised by a word with an undefined OP or OPX when the illegal-instruction check is off (U16). Safe. -/
  | reservedWord
  /-- Raised by a word of INTERNAL_ENCODINGS: its effect is undefined (U17). Safe. -/
  | internalWord
deriving DecidableEq, Repr

/-- Why the model gives an instruction no meaning. Each is a `refuse` of 93_implementation_defined.md; refusing is
safe. -/
inductive Refusal where
  /-- An instruction of the opcode table whose meaning is not written. Raised by no arm of this model. Safe. -/
  | notModelled (mnemonic : String)
  /-- Raised by `jmp r31`: "It is illegal to jump to the address contained in register r31" (U20). Safe. -/
  | jmpR31
  /-- Raised by the step when the EIC requests an unimplemented register set: a constraint on the environment (U24).
  Safe. -/
  | unimplementedSetRequest
  /-- Raised by a word whose constant fields are not those of the tables, unless the configuration gives it the
  canonical effect (U27). Safe. -/
  | nonCanonicalWord
deriving DecidableEq, Repr

/-- What a part of an instruction answers: a value and the state it leaves, or the outcome of the whole step (an
exception taken, a fault or a refusal), which abandons the rest of the instruction (60_exceptions.md R431). -/
inductive Flow (α : Type) where
  | ok (a : α) (s : State)
  | stop (o : Host.Outcome State Fault Refusal)

/-- A register set whose 32 registers hold 0. -/
def zeroRegs : RegFile := Vector.replicate 32 0#32

/-- The TLB entry every field of which is 0 (DESIGN CHOICE for reset, log 6). -/
def TlbEntry.zero : TlbEntry :=
  { tag := 0, pid := 0#14, g := false, pfn := 0#20, c := false, r := false, w := false, x := false, ecc := .none }

/-- The MPU region every field of which is 0 (DESIGN CHOICE for reset, log 7). -/
def MpuRegion.zero : MpuRegion := { base := 0#24, lim := 0#24, mt := 0#2, perm := 0#3 }

/-- An invalid cache line (20_memory.md R132; DESIGN CHOICE for the lines reset leaves indeterminate, log 8). -/
def CacheLine.invalid : CacheLine :=
  { valid := false, dirty := false, stored := false, line := 0, data := List.replicate 32 0#8, tagEcc := .none, dataEcc := .none }

/-- The machine right after reset in a configuration: 10_state.md R77 where the spec gives a value, the values of logs 2
to 15 elsewhere. -/
def State.resetOf (c : Config) : State where
  cfg := c
  pc := c.vector c.resetAddr
  gpr := zeroRegs
  shadow := List.replicate c.shadowSets zeroRegs
  status := resetStatus
  estatus := c.normStatus 0#32
  bstatus := c.normStatus 0#32
  ienable := 0#32
  exception := 0#32
  pteaddr := 0#32
  tlbacc := 0#32
  tlbmisc := 0#32
  eccinj := 0#32
  eccinjOld := 0#32
  badaddr := 0#32
  config := 0#32
  mpubase := 0#32
  mpuacc := 0#32
  tlb := if c.mmu then List.replicate c.tlbEntries TlbEntry.zero else []
  iregions := if c.mpu then List.replicate c.mpuNumIRegions MpuRegion.zero else []
  dregions := if c.mpu then List.replicate c.mpuNumDRegions MpuRegion.zero else []
  icache := List.replicate (c.icacheSize / 32) CacheLine.invalid
  dcache := List.replicate (c.dcacheSize / 32) CacheLine.invalid
  prefetched := []
  readAhead := []
  mem := []
  irq := 0#32
  eic := { rha := 0#32, rrs := 0#6, ril := 0#6, rnmi := false }
  resetPin := false
  cpuResetRequest := false
  resetReq := false
  hwBreak := false
  debugReq := false
  debugMode := false
  rfEcc := []
  tcmEcc := []
  wbError := false
  eccBus := 0#30
  customState := 0
  draws := 0

/-- The machine right after reset, in the default configuration (10_state.md R77, log 1). -/
def State.reset : State := State.resetOf Config.default

end Sys2Proof.Machine
end

