-- ==== Sys2Proof/Machine/Ecc.lean ====
section
/-! DEFINITION. ECC: when it is on, what reading a marked RAM word does, injection through `eccinj`, and the signals of
`ecc_event_bus` (60_exceptions.md R490 to R496; log 35, log 44). -/

namespace Sys2Proof.Machine

open Sys2Proof

/-- `config.ECCEN = 1` on a core with ECC (10_state.md R61). -/
def State.eccOn (s : State) : Bool := s.cfg.ecc && bit s.config 2

/-- `config.ECCEN = 1` and `config.ECCEXE = 1`: an unrecoverable error raises (60_exceptions.md R490). -/
def State.eccRaises (s : State) : Bool := s.eccOn && bit s.config 3

/-- What a read of a RAM word with an ECC mark delivers. -/
inductive EccRead where
  /-- The stored bits: no error, or ECC is off and "ignores all ECC errors" (60_exceptions.md R490). -/
  | clean
  /-- The stored bits with the wrong one put right (60_exceptions.md R491). -/
  | corrected
  /-- An ECC exception (60_exceptions.md R490, R491). -/
  | fatal
  /-- Any value: an unrecoverable error that raises nothing, ECCEN = 1 and ECCEXE = 0 (U25, log 35). -/
  | garbage
deriving DecidableEq, Repr

/-- The reading of a RAM where 1-bit errors are recoverable and 2-bit errors are not (60_exceptions.md R490, R491). -/
def State.eccRead (s : State) (m : EccMark) : EccRead :=
  if s.eccOn then
    match m with
    | .none => .clean
    | .single _ => .corrected
    | .double => if s.eccRaises then .fatal else .garbage
  else .clean

/-! ## Wrong bits -/

/-- A word with bit `k` changed; no data bit is past its width. -/
def flipWord (w : Word) (k : Nat) : Word := if k < 32 then w ^^^ BitVec.twoPow 32 k else w

/-- Bytes with bit `k` changed, bit 0 the lowest bit of the first byte. -/
def flipBytes (bs : List Byte) (k : Nat) : List Byte := bs.modify (k / 8) (fun b => b ^^^ BitVec.twoPow 8 (k % 8))

/-- The bits that a correction changes. -/
def EccMark.wrongBits : EccMark → List Nat
  | .none => []
  | .single k => [k]
  | .double => []

/-- The mark that wrong data bits make. -/
def markOf : List Nat → EccMark
  | [] => .none
  | [k] => .single k
  | _ :: _ :: _ => .double

/-- The mark after the `n` bits from `lo` up are written again: a 1-bit error among them is gone, any other stays
(log 44). -/
def EccMark.overwritten (m : EccMark) (lo n : Nat) : EccMark :=
  match m with
  | .single k => if lo ≤ k ∧ k < lo + n then .none else .single k
  | m => m

/-- The state with signal `n` of `ecc_event_bus` raised (60_exceptions.md R496). -/
def State.signal (s : State) (n : Nat) : State :=
  { s with eccBus := s.eccBus ||| (BitVec.setWidth 30 (BitVec.ofBool true) <<< n) }

/-- The state after the pipeline is flushed: nothing is prefetched, and an injection that was done is seen by the next
`rdctl eccinj` (20_memory.md R145, 70_reset_and_hazards.md R543). -/
def State.pipelineFlushed (s : State) : State := { s with prefetched := [], eccinjOld := 0#32 }

/-- The state after one more draw of a free value (log 13). -/
def State.drawn (s : State) : State := { s with draws := s.draws + 1 }

/-! ## Injection (10_state.md R68, 60_exceptions.md R495) -/

/-- The protected RAMs of `eccinj`, named by the low bit of their field (10_state.md R68). -/
def injRf : Nat := 0
/-- ICTAG. -/
def injIcTag : Nat := 2
/-- ICDAT. -/
def injIcDat : Nat := 4
/-- DCTAG. -/
def injDcTag : Nat := 6
/-- DCDAT. -/
def injDcDat : Nat := 8
/-- TLB. -/
def injTlb : Nat := 10
/-- DTCM0 to DTCM3. -/
def injDtcm (k : Nat) : Nat := 12 + 2 * k
/-- DCWB. -/
def injDcWb : Nat := 20

/-- How many bits `eccinj` asks to put in error at the next write of the RAM at field `lo`: "0x1 to inject a 1 bit ECC error
or 0x2 to inject a 2-bit ECC error" (10_state.md R68); 3 is not stated, and is free. ECCEN need not be 1 (log 44). -/
def State.injectedCount (s : State) (lo : Nat) : Nat :=
  if s.cfg.ecc then
    if field s.eccinj lo 2 = 3#2 then (Config.freeWordAt s.draws (3 * lo)).toNat % 3 else (field s.eccinj lo 2).toNat
  else 0

/-- Which of the `w` data bits of the written word that puts in error: "in the data bits, not the parity bits"
(60_exceptions.md R495); which ones is free, and two are different ones. -/
def State.injectedBits (s : State) (lo w : Nat) : List Nat :=
  let i := (Config.freeWordAt s.draws (3 * lo + 1)).toNat % w
  let j := (i + 1 + (Config.freeWordAt s.draws (3 * lo + 2)).toNat % (w - 1)) % w
  match s.injectedCount lo with
  | 0 => []
  | 1 => [i]
  | _ => [i, j]

/-- The fields of `eccinj` with a read-after-write hazard: those of the data cache, the victim buffer and the data
tightly-coupled memories (70_reset_and_hazards.md R543). -/
def injLate (lo : Nat) : Bool := decide (injDcTag ≤ lo) && lo != injTlb

/-- The state after that write: "Hardware sets the value of the inject field to 0x0 after the error injection has
occurred" (10_state.md R68), which an `rdctl` may not yet see (70_reset_and_hazards.md R543). -/
def State.injectionDone (s : State) (lo : Nat) : State :=
  if s.cfg.ecc && field s.eccinj lo 2 != 0#2 then
    { s with eccinj := setField s.eccinj lo 2 0#2,
             eccinjOld := if injLate lo then setField s.eccinjOld lo 2 (field s.eccinj lo 2) else s.eccinjOld,
             draws := s.draws + 1 }
  else s

end Sys2Proof.Machine
end

