-- ==== Sys2Proof/Machine/Ops.lean ====
section
/-! DEFINITION. The named operations over registers and control flow, and the shared operations that take an exception, a
break and an interrupt and return from them (60_exceptions.md sections 3 to 5). -/

namespace Sys2Proof.Machine

open Sys2Proof

/-- What every meaning and every step answers. -/
abbrev Result := Host.Outcome State Fault Refusal

/-- Run the rest of an instruction on what a part of it answered. -/
def Flow.bind {α : Type} (m : Flow α) (k : α → State → Result) : Result :=
  match m with
  | .ok a s => k a s
  | .stop o => o

/-- Run a further part of an instruction on what a part of it answered. -/
def Flow.andThen {α β : Type} (m : Flow α) (k : α → State → Flow β) : Flow β :=
  match m with
  | .ok a s => k a s
  | .stop o => .stop o

/-! ## General-purpose registers (10_state.md section 1) -/

/-- `gpr[set][r]`, with register 0 of the normal set always 0 (10_state.md R21, R23). -/
def State.getGpr (s : State) (set : Nat) (r : RegIdx) : Word :=
  if set = 0 then (if r = 0#5 then 0#32 else s.gpr[r.toNat]'(r.isLt))
  else (s.shadow.getD (set - 1) zeroRegs)[r.toNat]'(r.isLt)

/-- The storage of `gpr[set][r]` replaced by `v`, and nothing else. -/
def State.storeGpr (s : State) (set : Nat) (r : RegIdx) (v : Word) : State :=
  if set = 0 then { s with gpr := s.gpr.set r.toNat v r.isLt }
  else { s with shadow := s.shadow.modify (set - 1) (fun f => f.set r.toNat v r.isLt) }

/-- The key of a register in `rfEcc`. -/
def rfKey (set : Nat) (r : RegIdx) : Nat := 32 * set + r.toNat

/-- What writing a register does to the ECC state of the register file: fresh parity, and an injection where `eccinj.RF`
asks for one (60_exceptions.md R495, 70_reset_and_hazards.md R534); register 0 of the normal set is never written, so only
that one takes no part. The injection is one error of the register, where 95_test_vectors.md section 2.4 speaks of two RAM blocks, one
for each operand port (DESIGN CHOICE, log 44). -/
def State.rfWritten (s : State) (set : Nat) (r : RegIdx) : State :=
  if s.cfg.ecc then
    { s.injectionDone injRf with rfEcc := sparseSet EccMark.none s.rfEcc (rfKey set r) (markOf (s.injectedBits injRf 32)) }
  else s

/-- The data bits that the register file's RAM holds after `v` is written: `v`, but for the bits that an injection puts in
error (60_exceptions.md R495). -/
def State.rfWord (s : State) (v : Word) : Word := (s.injectedBits injRf 32).foldl flipWord v

/-- `gpr[set][r] <- v` as hardware and `wrprs` do it: a write to register 0 of the normal set is discarded; register 0 of
a shadow set is storage (10_state.md R21, R25). -/
def State.setGpr (s : State) (set : Nat) (r : RegIdx) (v : Word) : State :=
  if set = 0 ∧ r = 0#5 then s else (s.storeGpr set r (s.rfWord v)).rfWritten set r

/-- The number of the current register set, `status.CRS` (10_state.md R33). -/
def State.crs (s : State) : Nat := (stCrs s.status).toNat

/-- The number of the previous register set, `status.PRS` (10_state.md R34). -/
def State.prs (s : State) : Nat := (stPrs s.status).toNat

/-- `r[i]`: register `i` of the current set (00_scope.md R9). -/
def State.reg (s : State) (r : RegIdx) : Word := s.getGpr s.crs r

/-- `r[i] <- v` by an instruction other than a load: register `i` of the current set; "writing to zero has no effect", in a
shadow set as well, where only `wrprs` writes register 0 (00_scope.md R9, 10_state.md R21, R25, 46_other_control.md R412;
log 38). -/
def State.setReg (s : State) (r : RegIdx) (v : Word) : State := if r = 0#5 then s else s.setGpr s.crs r v

/-- `r[i] <- v` by a load. "In a shadow register set `r[0]` is ordinary storage: a load to `r0` there changes it"
(40_data_transfer.md R259(d)) where the configuration's `loadsWriteShadowR0` says so; elsewhere the write of register 0 has no
effect (10_state.md R25, 46_other_control.md R412; log 38). In the normal set the value is discarded (R259(a)). -/
def State.setLoaded (s : State) (r : RegIdx) (v : Word) : State :=
  if s.cfg.loadsWriteShadowR0 then s.setGpr s.crs r v else s.setReg r v

/-! ## The program counter -/

/-- The address of the next instruction in memory, modulo 2^32 (10_state.md R26, R27). -/
def State.nextPc (s : State) : Word := s.pc + 4#32

/-- `pc <- pc + 4`. -/
def State.advance (s : State) : State := { s with pc := s.nextPc }

/-- An instruction that writes `v` to the register `r` and falls through. -/
def State.finish (s : State) (r : RegIdx) (v : Word) : Result := .next (s.setReg r v).advance

/-- A load that writes `v` to the register `r` and falls through. -/
def State.finishLoad (s : State) (r : RegIdx) (v : Word) : Result := .next (s.setLoaded r v).advance

/-! ## Exceptions (60_exceptions.md R432, R449) -/

/-- The instruction-related exceptions, in the order of 60_exceptions.md R432, with the address each records. -/
inductive Exc where
  | eccWriteback
  | internalInterrupt
  | eccTlbInstr
  | supervisorOnlyInstrAddr
  | tlbMissInstr
  | tlbPermExecute
  | eccRegisterFile
  | mpuInstr
  | eccFetch
  | supervisorOnlyInstr
  | trap
  | illegal
  | unimplemented
  | supervisorOnlyDataAddr (addr : Word)
  | misalignedData (addr : Word)
  | misalignedDest (target : Word)
  | eccTlbData (addr : Word)
  | divisionError
  | tlbMissData (addr : Word)
  | tlbPermRead (addr : Word)
  | tlbPermWrite (addr : Word)
  | mpuData (addr : Word)
  | eccData (addr : Word)
deriving DecidableEq, Repr

/-- The arguments of `NonbreakEntry` (60_exceptions.md R450). -/
structure EntryArgs where
  cause   : BitVec 5
  /-- The faulting virtual address, for `pteaddr.VPN`. -/
  vaddr   : Word
  tlbMiss : Bool
  perm    : Bool
  bad     : Bool
  data    : Bool
  /-- What `badaddr` receives, where Table 39 names it (60_exceptions.md R432, R457). -/
  badaddr : Option Word
  /-- What `exception.ECCFTL` receives, on an ECC exception (60_exceptions.md R457). -/
  eccFatal : Option Bool
deriving DecidableEq, Repr

/-- The low `n` bits of a word. -/
def lowMask (n : Nat) : Word := BitVec.ofNat 32 (2 ^ n - 1)

/-- What `badaddr` records for a data address: with an MMU the whole virtual address; without one, bit 31 as 0 where it
selects the cache bypass, and without an MPU the unused high bits as 0 (10_state.md R60, 60_exceptions.md R457). -/
def badDataAddr (c : Config) (a : Word) : Word :=
  if c.mmu then a
  else
    let b := if c.bypass31 then a &&& 0x7FFFFFFF#32 else a
    if c.mpu then b else b &&& lowMask c.daddrWidth

/-- What `badaddr` records for a destination address (10_state.md R60). -/
def badDestAddr (c : Config) (a : Word) : Word :=
  if c.mmu || c.mpu then a else a &&& lowMask c.iaddrWidth

/-- `NonbreakEntry` arguments with every flag false. -/
def EntryArgs.plain (cause : BitVec 5) : EntryArgs :=
  { cause := cause, vaddr := 0#32, tlbMiss := false, perm := false, bad := false, data := false,
    badaddr := Option.none, eccFatal := Option.none }

/-- The table of 60_exceptions.md R449, with the ECC rows of R492 and R493 and the interrupt of R456. -/
def Exc.args (x : Exc) (s : State) : EntryArgs :=
  match x with
  | .eccWriteback => { EntryArgs.plain 22#5 with eccFatal := some false }
  | .internalInterrupt => EntryArgs.plain 2#5
  | .eccTlbInstr => { EntryArgs.plain 18#5 with vaddr := s.pc, eccFatal := some false }
  | .supervisorOnlyInstrAddr => { EntryArgs.plain 9#5 with vaddr := s.pc, bad := true }
  | .tlbMissInstr => { EntryArgs.plain 12#5 with vaddr := s.pc, tlbMiss := true }
  | .tlbPermExecute => { EntryArgs.plain 13#5 with vaddr := s.pc, perm := true }
  | .eccRegisterFile => { EntryArgs.plain 20#5 with eccFatal := some true }
  | .mpuInstr => EntryArgs.plain 16#5
  | .eccFetch => { EntryArgs.plain 19#5 with eccFatal := some false }
  | .supervisorOnlyInstr => EntryArgs.plain 10#5
  | .trap => EntryArgs.plain 3#5
  | .illegal => EntryArgs.plain 5#5
  | .unimplemented => EntryArgs.plain 4#5
  | .supervisorOnlyDataAddr a =>
    { EntryArgs.plain 11#5 with vaddr := a, bad := true, data := true, badaddr := some (badDataAddr s.cfg a) }
  | .misalignedData a =>
    { EntryArgs.plain 6#5 with vaddr := a, bad := true, data := true, badaddr := some (badDataAddr s.cfg a) }
  | .misalignedDest t =>
    { EntryArgs.plain 7#5 with vaddr := t, bad := true, badaddr := some (badDestAddr s.cfg t) }
  | .eccTlbData a =>
    { EntryArgs.plain 18#5 with
      vaddr := a, data := true, badaddr := some (badDataAddr s.cfg a), eccFatal := some false }
  | .divisionError => EntryArgs.plain 8#5
  | .tlbMissData a =>
    { EntryArgs.plain 12#5 with vaddr := a, tlbMiss := true, data := true, badaddr := some (badDataAddr s.cfg a) }
  | .tlbPermRead a =>
    { EntryArgs.plain 14#5 with vaddr := a, perm := true, data := true, badaddr := some (badDataAddr s.cfg a) }
  | .tlbPermWrite a =>
    { EntryArgs.plain 15#5 with vaddr := a, perm := true, data := true, badaddr := some (badDataAddr s.cfg a) }
  | .mpuData a => { EntryArgs.plain 17#5 with vaddr := a, badaddr := some (badDataAddr s.cfg a) }
  | .eccData a =>
    { EntryArgs.plain 21#5 with
      vaddr := a, data := true, badaddr := some (badDataAddr s.cfg a), eccFatal := some false }

/-- `status` after a nonbreak, non-external entry: PRS takes the old CRS unless an MMU preserves it under EH = 1; PIE, U
and CRS become 0, EH becomes 1 where implemented; IH, IL, NMI and RSIE are kept (60_exceptions.md R450, R451, R453). -/
def entryStatus (c : Config) (old : Word) : Word :=
  let w := if !c.mmu || !stEh old then setPrs (stCrs old) old else old
  c.normStatus (setCrs 0#6 (setEh true (setU false (setPie false w))))

/-- The saving of the return address in `ea` of the normal set and of `status` in `estatus`, which EH = 1 suppresses
(60_exceptions.md R450, R452, R453). -/
def State.saveForEntry (s : State) (ret : Word) : State :=
  if stEh s.status then s else { s.setGpr 0 29#5 ret with estatus := s.status }

/-- `tlbmisc` after entry (60_exceptions.md R454): PERM and BAD only when EH was 0; DBL and D always; WE set by a
permission violation and by a fast TLB miss. -/
def tlbmiscOnEntry (x : EntryArgs) (eh : Bool) (t : Word) : Word :=
  let t := if eh then t else setBit (setBit t 1 x.perm) 2 x.bad
  let t := setBit (setBit t 3 (x.tlbMiss && eh)) 0 x.data
  if x.perm || (x.tlbMiss && !eh) then setBit t 18 true else t

/-- The MMU bookkeeping of entry (60_exceptions.md R454); `eh` is the EH bit before the exception. -/
def State.mmuOnEntry (s : State) (x : EntryArgs) (eh : Bool) : State :=
  if s.cfg.mmu then
    { s with pteaddr := if !eh && (x.tlbMiss || x.perm) then setField s.pteaddr 2 20 (field x.vaddr 12 20) else s.pteaddr,
             tlbmisc := tlbmiscOnEntry x eh s.tlbmisc }
  else s

/-- `exception` after entry: CAUSE, and ECCFTL on an ECC exception (60_exceptions.md R457). -/
def exceptionOnEntry (x : EntryArgs) (e : Word) : Word :=
  let e := setField e 2 5 x.cause
  match x.eccFatal with
  | some b => setBit e 31 b
  | Option.none => e

/-- The writes of `exception` and `badaddr` at entry, Nios II/f only (60_exceptions.md R457). -/
def State.causeOnEntry (s : State) (x : EntryArgs) : State :=
  if s.cfg.isF then
    { s with exception := exceptionOnEntry x s.exception,
             badaddr := match x.badaddr with
               | some a => a
               | Option.none => s.badaddr }
  else s

/-- The EEH signal: an ECC exception while EH = 1 (60_exceptions.md R496). -/
def State.eehOnEntry (s : State) (x : EntryArgs) (eh : Bool) : State :=
  if x.eccFatal.isSome && eh then s.signal 0 else s

/-- The vector of a nonbreak entry: fast TLB miss with EH = 0, else the general one (60_exceptions.md R450). -/
def entryVector (c : Config) (x : EntryArgs) (eh : Bool) : Word :=
  c.vector (if x.tlbMiss && !eh then c.fastTlbMissAddr else c.exceptionAddr)

/-- `NonbreakEntry` (60_exceptions.md R450): taking an instruction-related exception or an internal interrupt. "Every
taken exception" flushes the pipeline (20_memory.md R145). -/
def State.nonbreakEntry (s : State) (x : EntryArgs) (ret : Word) : State :=
  { ((((s.saveForEntry ret).mmuOnEntry x (stEh s.status)).causeOnEntry x).eehOnEntry x (stEh s.status)).pipelineFlushed with
    status := entryStatus s.cfg s.status,
    pc := entryVector s.cfg x (stEh s.status) }

/-- The state after the exception `x` of the instruction at `pc`, or before it: `ret = pc + 4` in both cases
(60_exceptions.md R449, R452). -/
def State.take (s : State) (x : Exc) : State := s.nonbreakEntry (x.args s) s.nextPc

/-- `raise x`: abandon the instruction and take the exception (60_exceptions.md R449). -/
def raise (x : Exc) (s : State) : Result := .next (s.take x)

/-! ## Break (60_exceptions.md R460) -/

/-- `status` after a break: PIE and U become 0, EH becomes 1 where implemented, PRS takes CRS, CRS becomes 0. -/
def breakStatus (c : Config) (old : Word) : Word :=
  c.normStatus (setCrs 0#6 (setPrs (stCrs old) (setEh true (setU false (setPie false old)))))

/-- `BreakEntry(pc + 4)` (60_exceptions.md R460, R461, D21; `debugMode` by log 15), which flushes the pipeline
(20_memory.md R145). -/
def State.breakEntry (s : State) : State :=
  { (s.setGpr 0 30#5 s.nextPc).pipelineFlushed with
    bstatus := s.status,
    status := breakStatus s.cfg s.status,
    debugMode := s.cfg.hasDebug,
    pc := s.cfg.vector s.cfg.breakAddr }

/-! ## External interrupts (60_exceptions.md R455) -/

/-- `sstatus` as an external interrupt writes it: the old `status` with SRS in bit 31 (10_state.md R72). -/
def sstatusWord (old : Word) (rrs : BitVec 6) : Word := setBit old 31 (rrs != stCrs old)

/-- `status` after an external interrupt (60_exceptions.md R455, D23); `ani` is `config.ANI`. -/
def interruptStatus (c : Config) (old : Word) (q : EicRequest) (ani : Bool) : Word :=
  let w := if !stEh old || !c.mmu then setPrs (stCrs old) old else old
  let w := setCrs q.rrs (setIl q.ril (setNmi q.rnmi (setIh true (setRsie false (setU false (setEh true w))))))
  c.normStatus (if q.rnmi || !ani then setPie false w else w)

/-- The saving of `status` and of the return address, which EH = 1 suppresses: in `estatus` for the normal set, in
`sstatus` of the requested shadow set otherwise, `ea` of the requested set (60_exceptions.md R455). -/
def State.saveForInterrupt (s : State) (q : EicRequest) : State :=
  if stEh s.status then s
  else if q.rrs = 0#6 then { s.setGpr 0 29#5 s.nextPc with estatus := s.status }
  else (s.setGpr q.rrs.toNat 30#5 (sstatusWord s.status q.rrs)).setGpr q.rrs.toNat 29#5 s.nextPc

/-- `ExternalInterruptEntry` (60_exceptions.md R455), which flushes the pipeline (20_memory.md R145). -/
def State.interruptEntry (s : State) (q : EicRequest) : State :=
  { (s.saveForInterrupt q).pipelineFlushed with
    status := interruptStatus s.cfg s.status q (bit s.config 1),
    pc := q.rha }

/-! ## Transfers and returns -/

/-- `transfer(target)` (45_program_control.md R361): a misaligned target raises, or stops where the check is off (U6);
otherwise the instruction's other effects, `commit`, and `pc <- target`. -/
def transfer (target : Word) (commit : State) (s : State) : Result :=
  if field target 0 2 = 0#2 then .next { commit with pc := target }
  else if s.cfg.misalignedChecked then raise (.misalignedDest target) s
  else .fault .misalignedTransfer

/-- A saved status word as `eret` and `bret` restore it: the implemented fields, NMI only if it is still set
(60_exceptions.md R470, R471, D26). -/
def restoredStatus (c : Config) (cur saved : Word) : Word :=
  c.normStatus (setNmi (stNmi cur && stNmi saved) saved)

/-- The status word `eret` restores: `estatus` in the normal set, `sstatus` (r30) in a shadow set
(60_exceptions.md R470). -/
def State.savedStatus (s : State) : Word := if s.crs = 0 then s.estatus else s.getGpr s.crs 30#5

/-- `ExceptionReturn` (60_exceptions.md R470), which flushes the pipeline (20_memory.md R145). -/
def State.exceptionReturn (s : State) : Result :=
  transfer (s.reg 29#5) { s.pipelineFlushed with status := restoredStatus s.cfg s.status s.savedStatus } s

/-- `BreakReturn` (60_exceptions.md R472), which flushes the pipeline (20_memory.md R145); the debug pause ends
(60_exceptions.md R507, log 15). -/
def State.breakReturn (s : State) : Result :=
  transfer (s.getGpr 0 30#5)
    { s.pipelineFlushed with status := restoredStatus s.cfg s.status s.bstatus, debugMode := false } s

/-- `SupervisorCheck` before the rest of a supervisor-only instruction (46_other_control.md R391). -/
def supervisorOnly (s : State) (rest : Result) : Result :=
  if stU s.status then raise .supervisorOnlyInstr s else rest

/-- An instruction with an undefined OP or OPX, and `rdprs` and `wrprs` without shadow sets: the illegal-instruction
exception, or, where the check is off, no defined behaviour (30_encoding.md R211, R214, U16). -/
def illegalInstruction (s : State) : Result :=
  if s.cfg.illegalChecked then raise .illegal s else .fault .reservedWord

/-- An instruction that some cores lack: the unimplemented-instruction exception unless `present`
(41_arith_logic.md R293). -/
def whenImplemented (present : Bool) (s : State) (rest : Result) : Result :=
  if present then rest else raise .unimplemented s

end Sys2Proof.Machine
end

