-- ==== Sys2Proof/Machine/Mmu.lean ====
section
/-! DEFINITION. The MMU: partitions, the main TLB, its lookup, and the TLB write and read operations
(21_mmu_mpu.md sections 2 and 3). -/

namespace Sys2Proof.Machine

open Sys2Proof

/-- What a data access asks of the translation (21_mmu_mpu.md R150). -/
inductive AccessKind where
  | load
  | store
  | flushda
  | initda
deriving DecidableEq, Repr

/-- VPN = vaddr[31:12] (21_mmu_mpu.md R151). -/
def vpnOf (va : Word) : BitVec 20 := field va 12 20

/-- The I/O and kernel partitions, which bypass the TLB: `vaddr[31:30] = 0b11` (21_mmu_mpu.md R152, R167). -/
def bypassesTlb (va : Word) : Bool := field va 30 2 == 3#2

/-- The physical address of the I/O and kernel partitions: the top three bits cleared (21_mmu_mpu.md R153). -/
def lowPhysical (va : Word) : Nat := (va &&& 0x1FFFFFFF#32).toNat

/-- `PFN : vaddr[11:0]` (21_mmu_mpu.md R151). -/
def framePhysical (pfn : BitVec 20) (va : Word) : Nat := pfn.toNat * 4096 + (field va 0 12).toNat

/-- The line portion of a VPN (21_mmu_mpu.md R155; PRESUMED, log 49). -/
def tlbLine (c : Config) (vpn : BitVec 20) : Nat := vpn.toNat % c.tlbLines

/-- The tag portion of a VPN (21_mmu_mpu.md R155; PRESUMED, log 49). -/
def tlbTag (c : Config) (vpn : BitVec 20) : Nat := vpn.toNat / c.tlbLines

/-- The position of entry (line, way) in `tlb`. -/
def tlbIndex (c : Config) (line way : Nat) : Nat := line * c.tlbWays + way

/-- `tlbmisc.PID` (10_state.md R55). -/
def State.currentPid (s : State) : BitVec 14 := field s.tlbmisc 4 14

/-- Whether an entry matches: tag equal, and global or of the current process (21_mmu_mpu.md R156). -/
def State.tlbMatches (s : State) (vpn : BitVec 20) (e : TlbEntry) : Bool :=
  decide (e.tag = tlbTag s.cfg vpn) && (e.g || e.pid == s.currentPid)

/-- The entries of the line of a VPN, way 0 first (21_mmu_mpu.md R156). -/
def State.tlbWaysOf (s : State) (vpn : BitVec 20) : List TlbEntry :=
  (List.range s.cfg.tlbWays).map
    (fun w => s.tlb.getD (tlbIndex s.cfg (tlbLine s.cfg vpn) w) TlbEntry.zero)

/-- The bits of `tlbmisc.PID` a configuration implements. "Any unused upper bits must be zero" (10_state.md R55), which does not say
what they read after software wrote them nonzero: they are dropped and read 0 (DESIGN CHOICE, log 56). -/
def pidMask (c : Config) : BitVec 14 := BitVec.ofNat 14 (2 ^ c.pidBits - 1)

/-- The width of the tag of a TLB entry (21_mmu_mpu.md R155; PRESUMED, log 49). -/
def tlbTagWidth (c : Config) : Nat := 20 - Nat.log2 c.tlbLines

/-- An entry with bit `k` of its RAM word changed: the tag portion of the VPN lowest, then PFN, PID, and the flags G, C, R, W,
X; the rest are check bits (log 44). -/
def TlbEntry.flip (c : Config) (e : TlbEntry) (k : Nat) : TlbEntry :=
  let w := tlbTagWidth c
  { e with
    tag := if k < w then e.tag ^^^ 2 ^ k else e.tag,
    pfn := if w ≤ k ∧ k < w + 20 then e.pfn ^^^ BitVec.twoPow 20 (k - w) else e.pfn,
    pid := if w + 20 ≤ k ∧ k < w + 34 then e.pid ^^^ (BitVec.twoPow 14 (k - (w + 20)) &&& pidMask c) else e.pid,
    g := e.g != (k == w + 34), c := e.c != (k == w + 35), r := e.r != (k == w + 36), w := e.w != (k == w + 37),
    x := e.x != (k == w + 38) }

/-- An entry with a 1-bit error corrected. -/
def TlbEntry.fixed (c : Config) (e : TlbEntry) : TlbEntry :=
  match e.ecc with
  | .single k => { e.flip c k with ecc := .none }
  | _ => e

/-- An entry with what it delivers, its frame, cacheability and permissions, free; `way` tells the entries of a line apart. -/
def TlbEntry.unknown (draw way : Nat) (e : TlbEntry) : TlbEntry :=
  let v := Config.freeWordAt draw way
  { e with pfn := field v 0 20, c := bit v 24, r := bit v 23, w := bit v 22, x := bit v 21 }

/-- The entry of a way as the hardware reads it: a 1-bit error corrected where ECC is on (60_exceptions.md R491); with an
unrecoverable error that raises nothing, any value delivered (U25, log 35). -/
def State.tlbSeen (s : State) (way : Nat) (e : TlbEntry) : TlbEntry :=
  match s.eccRead e.ecc with
  | .corrected => e.fixed s.cfg
  | .garbage => e.unknown s.draws way
  | _ => e

/-- The entries of a line that match, as they are read; one with an unrecoverable error that raises nothing matches or not by a
free choice (21_mmu_mpu.md R156; U25, log 35). `way` is the way of the head of the list. -/
def State.tlbHits (s : State) (vpn : BitVec 20) : List TlbEntry → Nat → List TlbEntry
  | [], _ => []
  | e :: es, way =>
    if (match s.eccRead e.ecc with
        | .garbage => Config.freeBool s.draws way
        | _ => s.tlbMatches vpn (s.tlbSeen way e)) then s.tlbSeen way e :: s.tlbHits vpn es (way + 1)
    else s.tlbHits vpn es (way + 1)

/-- An unrecoverable error in the line that raises (60_exceptions.md R491). -/
def State.tlbFatal (s : State) (vpn : BitVec 20) : Bool :=
  (s.tlbWaysOf vpn).any (fun e => s.eccRead e.ecc == .fatal)

/-- The state after a hardware read of the line of a VPN: with ECC on, 1-bit errors corrected, the signals raised, a draw used
where the line has an error (60_exceptions.md R491, R496). -/
def State.tlbSettled (s : State) (vpn : BitVec 20) : State :=
  let es := s.tlbWaysOf vpn
  if !s.eccOn || es.all (fun e => e.ecc == .none) then s
  else
    let s1 := if es.any (fun e => e.ecc != .none && e.ecc != .double) then s.signal 19 else s
    let s2 := if es.any (fun e => e.ecc == .double) then s1.signal 20 else s1
    { s2 with
      tlb := s.tlb.mapIdx (fun i e => if i / s.cfg.tlbWays = tlbLine s.cfg vpn then e.fixed s.cfg else e),
      draws := s.draws + 1 }

/-- The answer of a lookup for one purpose: `miss` where nothing matches, `hit e` where one entry does, a fault where
more than one does (21_mmu_mpu.md R156, R157, U9). -/
def tlbLookup {α : Type} (va : Word) (s : State) (miss : Exc) (hit : TlbEntry → State → Flow α) : Flow α :=
  match s.tlbHits (vpnOf va) (s.tlbWaysOf (vpnOf va)) 0 with
  | [] => .stop (raise miss (s.tlbSettled (vpnOf va)))
  | [e] => hit e (s.tlbSettled (vpnOf va))
  | _ :: _ :: _ => .stop (.fault .multipleTlbMatch)

/-- `TranslateFetch` with an MMU (21_mmu_mpu.md R168), the ECC TLB error ranking first (60_exceptions.md R441). -/
def mmuFetch (va : Word) (s : State) : Flow Nat :=
  if bypassesTlb va then
    if stU s.status then .stop (raise .supervisorOnlyInstrAddr s) else .ok (lowPhysical va) s
  else if s.tlbFatal (vpnOf va) then .stop (raise .eccTlbInstr (s.tlbSettled (vpnOf va)))
  else if stU s.status && bit va 31 then .stop (raise .supervisorOnlyInstrAddr s)
  else tlbLookup va s .tlbMissInstr (fun e s1 =>
    if e.x then .ok (framePhysical e.pfn va) s1 else .stop (raise .tlbPermExecute s1))

/-- The permission a data access needs of its TLB entry (21_mmu_mpu.md R157, R167). -/
def tlbRefuses (kind : AccessKind) (va : Word) (e : TlbEntry) : Option Exc :=
  match kind with
  | .load => if e.r then none else some (.tlbPermRead va)
  | .store => if e.w then none else some (.tlbPermWrite va)
  | .flushda => none
  | .initda => none

/-- Steps 3 to 6 of `TranslateData` with an MMU: the physical address and the default cacheability
(21_mmu_mpu.md R167). -/
def mmuData (va : Word) (kind : AccessKind) (s : State) : Flow (Nat × Bool) :=
  if bypassesTlb va then .ok (lowPhysical va, !bit va 29) s
  else if s.tlbFatal (vpnOf va) then .stop (raise (.eccTlbData va) (s.tlbSettled (vpnOf va)))
  else tlbLookup va s (.tlbMissData va) (fun e s1 =>
    match tlbRefuses kind va e with
    | some x => .stop (raise x s1)
    | none => .ok (framePhysical e.pfn va, e.c) s1)

/-! ## The TLB write and read operations (21_mmu_mpu.md R160, R161) -/

/-- The bits of `tlbmisc.WAY` a configuration implements: those that number its ways (10_state.md R54). -/
def wayMask (c : Config) : BitVec 4 :=
  if c.tlbWays ≤ 1 then 0#4 else if c.tlbWays ≤ 2 then 1#4 else if c.tlbWays ≤ 4 then 3#4
  else if c.tlbWays ≤ 8 then 7#4 else 15#4

/-- `tlbmisc.WAY` (10_state.md R54). -/
def State.tlbWay (s : State) : Nat := (field s.tlbmisc 20 4).toNat

/-- `pteaddr.VPN` (10_state.md R49). -/
def State.pteVpn (s : State) : BitVec 20 := field s.pteaddr 2 20

/-- The entry that a TLB write of the value `v` writes (21_mmu_mpu.md R160), with the error that an injection puts "in the tag
portion of the VPN field" (60_exceptions.md R495). -/
def State.tlbEntryOf (s : State) (v : Word) : TlbEntry :=
  let bits := s.injectedBits injTlb (tlbTagWidth s.cfg)
  let e : TlbEntry :=
    { tag := tlbTag s.cfg s.pteVpn, pid := s.currentPid, g := bit v 20, pfn := field v 0 20,
      c := bit v 24, r := bit v 23, w := bit v 22, x := bit v 21, ecc := markOf bits }
  bits.foldl (TlbEntry.flip s.cfg) e

/-- `wrctl tlbacc`: IG forced to 0; with WE = 1 the TLB entry (line, WAY) is written and WAY advances modulo TLB_WAYS
(21_mmu_mpu.md R160, 10_state.md R50, R54, D5). A WAY at or above TLB_WAYS names no entry: none is written, and an
injection that `eccinj.TLB` asks for waits for a write of the TLB RAM (log 52). -/
def State.writeTlbacc (s : State) (v : Word) : State :=
  let s1 := { s with tlbacc := v &&& 0x01FFFFFF#32 }
  if bit s.tlbmisc 18 then
    let s2 :=
      if s.tlbWay < s.cfg.tlbWays then
        { s1.injectionDone injTlb with
          tlb := s.tlb.set (tlbIndex s.cfg (tlbLine s.cfg s.pteVpn) s.tlbWay) (s.tlbEntryOf v) }
      else s1
    { s2 with
      tlbmisc := setField s.tlbmisc 20 4 (BitVec.ofNat 4 ((s.tlbWay + 1) % s.cfg.tlbWays)) }
  else s1

/-- `tlbacc` as a TLB read loads it (21_mmu_mpu.md R161). -/
def tlbaccOf (e : TlbEntry) : Word :=
  flagMask e.c 24 ||| flagMask e.r 23 ||| flagMask e.w 22 ||| flagMask e.x 21 ||| flagMask e.g 20 ||| place e.pfn 0

/-- The VPN that a tag and the line of `pteaddr.VPN` make (21_mmu_mpu.md R161). -/
def State.vpnFromTag (s : State) (tag : Nat) : BitVec 20 :=
  BitVec.ofNat 20 (tag * s.cfg.tlbLines + tlbLine s.cfg s.pteVpn)

/-- The TLB read operation, on the state whose `tlbmisc` fields are written: the tag portion of `pteaddr.VPN`,
`tlbmisc.PID` and `tlbacc` take the entry (21_mmu_mpu.md R161). With ECC on, a corrupted entry sets EE and the TLB_SW signal,
and its tag reads as a free value (60_exceptions.md R494, log 44). A WAY at or above TLB_WAYS names no entry: free
values (log 52). -/
def State.readTlb (s : State) : State :=
  if s.tlbWay < s.cfg.tlbWays then
    let e := s.tlb.getD (tlbIndex s.cfg (tlbLine s.cfg s.pteVpn) s.tlbWay) TlbEntry.zero
    if !s.eccOn || e.ecc == .none then
      { s with pteaddr := setField s.pteaddr 2 20 (s.vpnFromTag e.tag),
               tlbmisc := setField s.tlbmisc 4 14 e.pid, tlbacc := tlbaccOf e }
    else
      { s.signal 21 with
        pteaddr := setField s.pteaddr 2 20 (s.vpnFromTag ((Config.freeWord s.draws).toNat / s.cfg.tlbLines)),
        tlbmisc := setBit (setField s.tlbmisc 4 14 e.pid) 24 true,
        tlbacc := tlbaccOf e, draws := s.draws + 1 }
  else
    { s with pteaddr := setField s.pteaddr 2 20 (s.vpnFromTag ((Config.freeWordAt s.draws 0).toNat / s.cfg.tlbLines)),
             tlbmisc := setField s.tlbmisc 4 14 (field (Config.freeWordAt s.draws 1) 0 14 &&& pidMask s.cfg),
             tlbacc := Config.freeWordAt s.draws 2 &&& 0x01FFFFFF#32, draws := s.draws + 1 }

/-- `tlbmisc` as `wrctl` writes it: EE (with ECC), WAY, WE and PID from the value, RD reading 0, the four flags kept
(10_state.md R51, 21_mmu_mpu.md R161, D4); bits of PID that the configuration does not have are dropped (DESIGN CHOICE, log 56). -/
def State.tlbmiscWritten (s : State) (v : Word) : Word :=
  flagMask (s.cfg.ecc && bit v 24) 24 ||| place (field v 20 4 &&& wayMask s.cfg) 20 ||| flagMask (bit v 18) 18 |||
  place (field v 4 14 &&& pidMask s.cfg) 4 ||| (s.tlbmisc &&& 0x0000000F#32)

/-- `wrctl tlbmisc` (21_mmu_mpu.md R161). -/
def State.writeTlbmisc (s : State) (v : Word) : State :=
  let s1 := { s with tlbmisc := s.tlbmiscWritten v }
  if bit v 19 then s1.readTlb else s1

end Sys2Proof.Machine
end

