-- ==== Sys2Proof/Machine/Mpu.lean ====
section
/-! DEFINITION. The MPU: regions, the check of a fetch and of a data access, and the region write and read operations
(21_mmu_mpu.md section 4). -/

namespace Sys2Proof.Machine

open Sys2Proof

/-- The MPU checks accesses: present, enabled by `config.PE`, and not ignored "during debugging" (21_mmu_mpu.md R171,
R184; log 15). -/
def State.mpuOn (s : State) : Bool := s.cfg.mpu && bit s.config 0 && !s.debugMode

/-- Whether a region matches an address, by limit (21_mmu_mpu.md R173) or by size (R172). -/
def regionMatches (c : Config) (g : MpuRegion) (a : Nat) : Bool :=
  if c.mpuUseLimit then decide (g.base.toNat * 256 ≤ a) && decide (a < g.lim.toNat * 256)
  else decide (Nat.land a (g.lim.toNat * 256) = g.base.toNat * 256)

/-- A region whose base is not aligned to its size (21_mmu_mpu.md R172, U11); a MASK of 0 is read by the formula (U12,
log 26). -/
def regionMisaligned (c : Config) (g : MpuRegion) : Bool :=
  !c.mpuUseLimit && g.lim != 0#24 && (g.base &&& ~~~g.lim) != 0#24

/-- The deciding region: the matching one with the smallest index (21_mmu_mpu.md R174); meeting a misaligned region
first is undefined (U11). -/
def decidingRegion (c : Config) : List MpuRegion → Nat → Except Fault (Option MpuRegion)
  | [], _ => .ok none
  | g :: gs, a =>
    if regionMisaligned c g then .error .misalignedMpuRegion
    else if regionMatches c g a then .ok (some g)
    else decidingRegion c gs a

/-- What a PERM value grants, or none where it is reserved (21_mmu_mpu.md R175): execute of an instruction region. -/
def permExecute (perm : BitVec 3) (user : Bool) : Option Bool :=
  match perm with
  | 0#3 => some false
  | 1#3 => some (!user)
  | 2#3 => some true
  | _ => none

/-- Read of a data region (21_mmu_mpu.md R175). -/
def permRead (perm : BitVec 3) (user : Bool) : Option Bool :=
  match perm with
  | 0#3 => some false
  | 1#3 => some (!user)
  | 2#3 => some true
  | 4#3 => some (!user)
  | 5#3 => some true
  | 6#3 => some true
  | _ => none

/-- Write of a data region (21_mmu_mpu.md R175). -/
def permWrite (perm : BitVec 3) (user : Bool) : Option Bool :=
  match perm with
  | 0#3 => some false
  | 1#3 => some false
  | 2#3 => some false
  | 4#3 => some (!user)
  | 5#3 => some (!user)
  | 6#3 => some true
  | _ => none

/-- What a data access needs of the deciding region; `flushda` and `initda` by MPU_CACHEOP_PERM (21_mmu_mpu.md R176,
D13, log 51). -/
def permData (c : Config) (kind : AccessKind) (perm : BitVec 3) (user : Bool) : Option Bool :=
  match kind with
  | .load => permRead perm user
  | .store => permWrite perm user
  | .flushda | .initda =>
    match c.mpuCacheOpPerm with
    | .none => (permRead perm user).map (fun _ => true)
    | .read => permRead perm user
    | .write => permWrite perm user

/-- The check of a fetch: whether it violates a region (21_mmu_mpu.md R174, R176). An address outside the implemented
space matches no region; so bit 31 of a fetch address is not stripped, where that of a data address is (log 51). -/
def mpuFetch (va : Word) (s : State) : Flow Bool :=
  if s.mpuOn then
    if inWidth s.cfg.iaddrWidth va.toNat then
      match decidingRegion s.cfg s.iregions va.toNat with
      | .error f => .stop (.fault f)
      | .ok none => .ok true s
      | .ok (some g) =>
        match permExecute g.perm (stU s.status) with
        | none => .stop (.fault .reservedMpuPermission)
        | some granted => .ok (!granted) s
    else .ok true s
  else .ok false s

/-- The check of a data access at `a`, the address as the MPU compares it (21_mmu_mpu.md R176): the MT field of the
deciding region, or none where the MPU is off. `va` is what a violation records. -/
def mpuData (va : Word) (a : Nat) (kind : AccessKind) (s : State) : Flow (Option (BitVec 2)) :=
  if s.mpuOn then
    if inWidth s.cfg.daddrWidth a then
      match decidingRegion s.cfg s.dregions a with
      | .error f => .stop (.fault f)
      | .ok none => .stop (raise (.mpuData va) s)
      | .ok (some g) =>
        match permData s.cfg kind g.perm (stU s.status) with
        | none => .stop (.fault .reservedMpuPermission)
        | some true => .ok (some g.mt) s
        | some false => .stop (raise (.mpuData va) s)
    else .stop (raise (.mpuData va) s)
  else .ok none s

/-! ## The region registers (10_state.md R62 to R67) -/

/-- The bits of BASE, MASK or LIMIT from log2 of the minimum region size up to bit `top - 1`, as bits of a 32-bit word
(21_mmu_mpu.md R178). -/
def regionBits (minSize top : Nat) : Word := lowMask top &&& ~~~(lowMask (max 8 (Nat.log2 minSize)))

/-- The bits of INDEX that number `n` regions (10_state.md R62). -/
def indexMask (n : Nat) : BitVec 5 :=
  if n ≤ 2 then 1#5 else if n ≤ 4 then 3#5 else if n ≤ 8 then 7#5 else if n ≤ 16 then 15#5 else 31#5

/-- `mpubase` as `wrctl` writes it: the implemented bits of BASE and INDEX for the kind of region D names, and D
(10_state.md R62). -/
def mpubaseWritten (c : Config) (v : Word) : Word :=
  if bit v 0 then
    (v &&& regionBits c.mpuMinDRegion c.daddrWidth) ||| place (field v 1 5 &&& indexMask c.mpuNumDRegions) 1 ||| 1#32
  else (v &&& regionBits c.mpuMinIRegion c.iaddrWidth) ||| place (field v 1 5 &&& indexMask c.mpuNumIRegions) 1

/-- The fields of `mpuacc` as `wrctl` writes them: the implemented bits of MASK or of LIMIT (one bit wider), MT of a data
region, PERM; RD and WR read 0 (10_state.md R63 to R67). `d` is `mpubase.D`. -/
def mpuaccWritten (c : Config) (d : Bool) (v : Word) : Word :=
  let width := if d then c.daddrWidth else c.iaddrWidth
  let minSize := if d then c.mpuMinDRegion else c.mpuMinIRegion
  let top := if c.mpuUseLimit then width + 1 else width
  (v &&& regionBits minSize (min 32 top)) ||| (if d then v &&& 0x00000060#32 else 0#32) ||| (v &&& 0x0000001C#32)

/-- The region that `mpubase` and `mpuacc` describe (21_mmu_mpu.md R180). -/
def regionOf (base acc : Word) : MpuRegion :=
  { base := field base 8 24, lim := field acc 8 24, mt := field acc 5 2, perm := field acc 2 3 }

/-- `mpubase.D` (10_state.md R62). -/
def State.mpuD (s : State) : Bool := bit s.mpubase 0

/-- `mpubase.INDEX` (10_state.md R62). -/
def State.mpuIndex (s : State) : Nat := (field s.mpubase 1 5).toNat

/-- The MPU region write operation, after the `mpuacc` fields are written; an INDEX that no region has writes nothing
(21_mmu_mpu.md R180). -/
def State.mpuRegionWrite (s : State) : State :=
  let g := regionOf s.mpubase s.mpuacc
  if s.mpuD then { s with dregions := s.dregions.set s.mpuIndex g }
  else { s with iregions := s.iregions.set s.mpuIndex g }

/-- `mpuacc` as a region read loads it (21_mmu_mpu.md R181). -/
def mpuaccOf (g : MpuRegion) : Word := place g.lim 8 ||| place g.mt 5 ||| place g.perm 2

/-- The MPU region read operation (21_mmu_mpu.md R181); an INDEX that no region has reads free values (log 52). -/
def State.mpuRegionRead (s : State) : State :=
  match (if s.mpuD then s.dregions[s.mpuIndex]? else s.iregions[s.mpuIndex]?) with
  | some g => { s with mpubase := setField s.mpubase 8 24 g.base, mpuacc := mpuaccOf g }
  | none =>
    { s with
      mpubase := mpubaseWritten s.cfg (setField s.mpubase 8 24 (field (Config.freeWordAt s.draws 0) 8 24)),
      mpuacc := mpuaccWritten s.cfg s.mpuD (Config.freeWordAt s.draws 1), draws := s.draws + 1 }

/-- `wrctl mpuacc` (21_mmu_mpu.md R180, R181): WR writes a region, RD reads one, both is undefined (U3), neither only
updates the fields. -/
def State.writeMpuacc (s : State) (v : Word) : Flow Unit :=
  if bit v 1 then
    if bit v 0 then .stop (.fault .mpuReadAndWrite) else .ok () s.mpuRegionRead
  else
    let s1 := { s with mpuacc := mpuaccWritten s.cfg s.mpuD v }
    if bit v 0 then .ok () s1.mpuRegionWrite else .ok () s1

end Sys2Proof.Machine
end

