-- ==== Sys2Proof/Machine/Cache.lean ====
section
/-! DEFINITION. The bus, tightly-coupled memory and the two caches, as 20_memory.md R125 to R132 gives them (option (a) of
R137; log 39), with the ECC errors of their RAMs (60_exceptions.md R491; log 44, log 45). -/

namespace Sys2Proof.Machine

open Sys2Proof

/-! ## The bus (20_memory.md R101, R102, R105) -/

/-- `n` bytes from `a` up: the bytes of memory where `ram` holds, free values elsewhere (U4, log 20, log 21). -/
def busBytes (ram : Nat → Bool) (s : State) (a n : Nat) : List Byte :=
  (List.range n).map (fun k => if ram (a + k) then s.mem.read (a + k) else Config.freeByte s.draws k)

/-- The state after that read: a draw is used where a byte was free. -/
def busReadState (ram : Nat → Bool) (s : State) (a n : Nat) : State :=
  if (List.range n).all (fun k => ram (a + k)) then s else s.drawn

/-- Memory after the bytes `bs` are written from `a` up, bytes outside memory being lost (U4, log 20, log 21). -/
def busStore (ram : Nat → Bool) (m : Memory) (a : Nat) : List Byte → Memory
  | [] => m
  | b :: bs => busStore ram (if ram a then m.write a b else m) (a + 1) bs

/-! ## Wrong bits of a line (60_exceptions.md R491, R495) -/

/-- A physical line address with bit `k` of its tag changed, the `m` lowest lines being told apart by the index; no tag bit is
past the 32 bits of an address. -/
def flipTag (m line k : Nat) : Nat := if k < 27 - Nat.log2 m then line ^^^ (2 ^ k * m) else line

/-- The data of a line with a 1-bit error corrected. -/
def CacheLine.fixedData (l : CacheLine) : List Byte := l.dataEcc.wrongBits.foldl flipBytes l.data

/-- A line as it is written from memory, with the bits that injections put in error (20_memory.md R125, R132, 60_exceptions.md
R495); `m` as for `flipTag`. -/
def filledLine (m line : Nat) (data : List Byte) (tagBits dataBits : List Nat) : CacheLine :=
  { valid := true, dirty := false, stored := false, line := tagBits.foldl (flipTag m) line, data := dataBits.foldl flipBytes data,
    tagEcc := markOf tagBits, dataEcc := markOf dataBits }

/-- Whether a line must be fetched again because ECC finds an error in it: "the Nios II processor flushes the cache line
and reads from external memory" (60_exceptions.md R491). -/
def State.irefetch (s : State) (l : CacheLine) : Bool :=
  s.eccOn && (l.tagEcc != .none || l.dataEcc != .none)

/-! ## Words of tightly-coupled memory and their marks (20_memory.md R103) -/

/-- The ECC mark of the TCM word at a physical address. -/
def State.tcmMark (s : State) (a : Nat) : EccMark := sparseGet EccMark.none s.tcmEcc (a / 4)

/-- The four bytes of memory of the word at a physical address. -/
def State.wordBytes (s : State) (a : Nat) : List Byte := (List.range 4).map (fun k => s.mem.read (a / 4 * 4 + k))

/-! ## Old instruction words (20_memory.md R101, R132, R133, R145, U8; log 39)

A word of instruction memory that is changed may run as it was, until the instruction cache line that may hold it is
invalidated and then the pipeline is flushed. -/

/-- The word of memory at the physical address `4 * k` as a fetch reads it past the instruction cache; in a tightly-coupled memory
with a 1-bit error corrected (20_memory.md R103, R113). -/
def State.instrWord (s : State) (k : Nat) : Word :=
  wordOfByteList (if s.cfg.tightlyCoupled (4 * k) && s.eccOn then
    (s.tcmMark (4 * k)).wrongBits.foldl flipBytes (s.wordBytes (4 * k)) else s.wordBytes (4 * k))

/-- The words kept with the index `i` for the word number `k`. -/
def wordsAt (m : List (Nat × List (Nat × Word))) (i k : Nat) : List Word :=
  (sparseGet [] m k).filterMap (fun e => if e.1 = i then some e.2 else none)

/-- The old words of the physical address `4 * k` that the pipeline may still hold, fetched by index `i`. -/
def State.prefetchedAt (s : State) (i k : Nat) : List Word := wordsAt s.prefetched i k

/-- The old words of the physical address `4 * k` that the instruction cache may hold at index `i`, read ahead of execution. -/
def State.aheadAt (s : State) (i k : Nat) : List Word := wordsAt s.readAhead i k

/-- The lists kept per word number with the elements of `new k` put to that of each `k` of `ks`. -/
def addWords {α : Type} [DecidableEq α] (new : Nat → List α) (m : List (Nat × List α)) (ks : List Nat) :
    List (Nat × List α) :=
  ks.foldl (fun m k => if new k = [] then m else sparseSet [] m k (new k ∪ sparseGet [] m k)) m

/-- The words of `ks` that change in memory when `s` becomes `t`. -/
def changedWords (s t : State) (ks : List Nat) : List Nat := ks.filter (fun k => s.instrWord k != t.instrWord k)

/-- `t`, what `s` becomes when the words `ks` of memory change, with the old words that the instruction cache may hold, or the
pipeline alone where the cache cannot. -/
def State.keepPrefetched (s t : State) (ks : List Nat) : State :=
  if s.cfg.prefetches then
    { t with
      prefetched := addWords (fun k => if s.cfg.ihomes k = [] then [(0, s.instrWord k)] else []) s.prefetched (changedWords s t ks),
      readAhead := addWords (fun k => (s.cfg.ihomes k).map (fun i => (i, s.instrWord k))) s.readAhead (changedWords s t ks) }
  else t

/-- The numbers of the words that hold the `n` bytes from `a` up. -/
def wordsOf (a n : Nat) : List Nat := if n = 0 then [] else List.range' (a / 4) ((a + n - 1) / 4 + 1 - a / 4)

/-- The ECC mark of a word after `n` of its bytes are written from `a` up, with no injection: none for a whole word
(70_reset_and_hazards.md R534); part of it rewrites the bits it writes (log 44). -/
def State.rewrittenMark (s : State) (a n : Nat) : EccMark :=
  if n = 4 then .none else (s.tcmMark a).overwritten (8 * (a % 4)) (8 * n)

/-- The ECC marks of the tightly-coupled memories after the data master writes `n` bytes of the word at `a`, where it reaches memory:
a word of an instruction tightly-coupled memory that it reaches is initialised by that (70_reset_and_hazards.md R534). -/
def State.marksWritten (s : State) (a n : Nat) : List (Nat × EccMark) :=
  if s.cfg.ecc && s.cfg.dataRam a then sparseSet EccMark.none s.tcmEcc (a / 4) (s.rewrittenMark a n) else s.tcmEcc

/-- A write of the data master: the bytes that `ram` has, from `a` up, and the ECC marks that it leaves. -/
def State.busWriteTo (ram : Nat → Bool) (marks : List (Nat × EccMark)) (s : State) (a : Nat) (bs : List Byte) : State :=
  s.keepPrefetched { s with mem := busStore ram s.mem a bs, tcmEcc := marks } (wordsOf a bs.length)

/-- A store of the data master, within one word. -/
def State.busWrite (s : State) (a : Nat) (bs : List Byte) : State :=
  State.busWriteTo s.cfg.dataRam (s.marksWritten a bs.length) s a bs

/-- A write-back of the data cache: "do not affect the tightly-coupled memory" (20_memory.md R103, R135). -/
def State.lineWrite (s : State) (a : Nat) (bs : List Byte) : State := State.busWriteTo s.cfg.dlineRam s.tcmEcc s a bs

/-- `n` free bytes. -/
def freeBytes (draw n : Nat) : List Byte := (List.range n).map (Config.freeByte draw)

/-! ## Tightly-coupled memory (20_memory.md R103) -/

/-- The state with the mark of the TCM word at a physical address set. -/
def State.setTcmMark (s : State) (a : Nat) (m : EccMark) : State :=
  { s with tcmEcc := sparseSet EccMark.none s.tcmEcc (a / 4) m }

/-- The state with the bits `ks` of the TCM word at a physical address changed. -/
def State.flipTcm (ram : Nat → Bool) (s : State) (a : Nat) (ks : List Nat) : State :=
  { s with mem := busStore ram s.mem (a / 4 * 4) (ks.foldl flipBytes (s.wordBytes a)) }

/-- The state with a 1-bit error of the TCM word at a physical address corrected in the RAM (60_exceptions.md R491, R495). -/
def State.correctTcm (ram : Nat → Bool) (s : State) (a : Nat) : State :=
  (s.flipTcm ram a (s.tcmMark a).wrongBits).setTcmMark a .none

/-- A read of `n` bytes of a tightly-coupled memory: `re` and `ue` are its signals, `x` its exception
(60_exceptions.md R491, R496). -/
def tcmRead (ram : Nat → Bool) (x : Exc) (re ue : Nat) (a n : Nat) (s : State) : Flow (List Byte) :=
  match s.eccRead (s.tcmMark a) with
  | .clean => .ok (busBytes ram s a n) (busReadState ram s a n)
  | .corrected =>
    .ok (busBytes ram (s.correctTcm ram a) a n) ((busReadState ram (s.correctTcm ram a) a n).signal re)
  | .fatal => .stop (raise x (s.signal ue))
  | .garbage => .ok (freeBytes s.draws n) (s.drawn.signal ue)

/-- The mark of a RAM word once an injection puts the bits `bits` in error: an unrecoverable old error stays, a 1-bit one is put
right (log 44). -/
def EccMark.withInjection (old : EccMark) (bits : List Nat) : EccMark :=
  if bits = [] ∨ old = .double then old else markOf bits

/-- The bits that change in the RAM word then. -/
def EccMark.injectionFlips (old : EccMark) (bits : List Nat) : List Nat :=
  if bits = [] then [] else old.wrongBits ++ bits

/-- A write of a data tightly-coupled memory, number `k`: a whole word leaves no old error, an injection leaves a new one
(60_exceptions.md R495, log 44). -/
def State.tcmWrite (s : State) (k a : Nat) (bs : List Byte) : State :=
  if s.cfg.ecc then
    let bits := s.injectedBits (injDtcm k) 32
    let old := s.rewrittenMark a bs.length
    let s1 := { s with mem := busStore s.cfg.dataRam s.mem a bs }
    let s2 := (s1.flipTcm s.cfg.dataRam a (old.injectionFlips bits)).setTcmMark a (old.withInjection bits)
    (s.keepPrefetched s2 (wordsOf a bs.length)).injectionDone (injDtcm k)
  else s.busWrite a bs

/-- The number of the tightly-coupled memory of the list that holds `a`. -/
def tcmNumber (ts : List Span) (a : Nat) : Option Nat := ts.findIdx? (fun t => t.has a)

/-! ## Cache lines (20_memory.md R125, R132) -/

/-- The line index of an address, virtual with an MMU (20_memory.md R125); `size` is the cache's size in bytes. -/
def lineIndex (size a : Nat) : Nat := (a / 32) % (size / 32)

/-- The data line at an index. -/
def State.dline (s : State) (i : Nat) : CacheLine := s.dcache.getD i CacheLine.invalid

/-- The state with the data line at an index replaced. -/
def State.setDline (s : State) (i : Nat) (l : CacheLine) : State := { s with dcache := s.dcache.set i l }

/-- The instruction line at an index. -/
def State.iline (s : State) (i : Nat) : CacheLine := s.icache.getD i CacheLine.invalid

/-- The word of a line that has the number `k`. -/
def CacheLine.word (l : CacheLine) (k : Nat) : Word := wordOfByteList ((l.data.drop (k % 8 * 4)).take 4)

/-- The numbers of the words that a fetch finds in the instruction line at an index and memory holds otherwise. -/
def State.staleIn (s : State) (i : Nat) : List Nat :=
  if (s.iline i).valid && !s.irefetch (s.iline i) then
    (wordsOf ((s.iline i).line * 32) 32).filter (fun k =>
      !s.cfg.tightlyCoupled (4 * k) && (s.iline i).word k != s.instrWord k)
  else []

/-- The state with the instruction line at an index replaced; the old words of the line may still be in the pipeline
(20_memory.md R133, R145). -/
def State.setIline (s : State) (i : Nat) (l : CacheLine) : State :=
  { s with icache := s.icache.set i l,
           prefetched := addWords (fun k => [(i, (s.iline i).word k)]) s.prefetched (s.staleIn i) }

/-- `n` bytes of a line from offset `off` up. -/
def lineBytes (l : CacheLine) (off n : Nat) : List Byte := (l.data.drop off).take n

/-- The bytes of a line with `bs` put at offset `off`. -/
def patchBytes (data : List Byte) (off : Nat) (bs : List Byte) : List Byte :=
  data.take off ++ bs ++ data.drop (off + bs.length)

/-- The physical line address that the tag of a data line reads as: the stored one, with a 1-bit error corrected, or a free one
where an unrecoverable error raises nothing (U25, log 35). -/
def State.lineTag (s : State) (l : CacheLine) : Nat :=
  match s.eccRead l.tagEcc with
  | .clean => l.line
  | .corrected => l.tagEcc.wrongBits.foldl (flipTag s.cfg.dtagUnit) l.line
  | _ => (Config.freeWord s.draws).toNat / 32

/-- The state after a data tag is read: signals DCTAG_RE and DCTAG_UE, a draw where the tag was free, and the error
corrected where it can be (60_exceptions.md R496). A tag that is read to write its line back signals the same, also where the 2-bit
error leaves cause 22 to come, with which R496 pairs DCWB_UE alone (DESIGN CHOICE, logs 44 and 45). -/
def State.dtagRead (s : State) (i : Nat) (l : CacheLine) : State :=
  match s.eccRead l.tagEcc with
  | .clean => s
  | .corrected => (s.setDline i { l with line := s.lineTag l, tagEcc := .none }).signal 13
  | .fatal => s.drawn.signal 14
  | .garbage => s.drawn.signal 14

/-! ## The data cache -/

/-- The worse of two marks. -/
def EccMark.worse : EccMark → EccMark → EccMark
  | .double, _ => .double
  | _, .double => .double
  | .single k, _ => .single k
  | .none, m => m

/-- The write-back of a dirty line through the victim buffer, to the address its stored tag names (20_memory.md R125). A
2-bit error of the line or of the victim buffer leaves the 32 bytes of memory open and, when ECC exceptions are on, the
imprecise exception to come (60_exceptions.md R493, log 45); one of the tag is signalled by `dtagRead` as DCTAG_UE and here by
nothing, where R496 pairs DCWB_UE with cause 22 (DESIGN CHOICE, logs 44 and 45). The bytes of a tightly-coupled memory are lost (R135).
An injection of DCWB is in "the first word written into the victim buffer RAM" (R495), here the line's lowest; that it takes
place at the write-back, as R495 and 10_state.md R68 say, and not at the store, as the steps of 95_test_vectors.md section 2.8
expect, is the model's choice (log 44). -/
def State.writeBack (s : State) (l : CacheLine) : State :=
  let bits := s.injectedBits injDcWb 32
  let s1 := s.injectionDone injDcWb
  let a := s.lineTag l * 32
  let tagLost := s.eccOn && l.tagEcc == .double
  let s2 := { s1 with wbError := s1.wbError || (tagLost && s.eccRaises),
                      draws := if tagLost then s1.draws + 1 else s1.draws }
  match s.eccRead (l.dataEcc.worse (markOf bits)) with
  | .clean => s2.lineWrite a (bits.foldl flipBytes l.data)
  | .corrected => (s2.lineWrite a l.fixedData).signal 17
  | .fatal => { (s2.lineWrite a (freeBytes s2.draws 32)).drawn.signal 18 with wbError := true }
  | .garbage => (s2.lineWrite a (freeBytes s2.draws 32)).drawn.signal 18

/-- The state after the line at index `i` leaves the cache: "If the data cache line is dirty, write the line back to memory"
(20_memory.md R125, R126). -/
def State.evict (s : State) (i : Nat) : State := if (s.dline i).dirty then s.writeBack (s.dline i) else s

/-- The 32 bytes that a line fill of the data cache reads at the line of the physical address `a` (20_memory.md R125); those of
a tightly-coupled memory are free (R103). -/
def State.dfillBytes (s : State) (a : Nat) : List Byte := busBytes s.cfg.dlineRam s (a / 32 * 32) 32

/-- The state after a line fill of the data cache at index `i` from the physical address `a` (20_memory.md R125), with the
injections of DCTAG and DCDAT (60_exceptions.md R495). An injection in a tag RAM word is in the bits of its line address alone,
never in its valid or dirty bit: R495 says "only data bits" and does not name them (DESIGN CHOICE, log 44). -/
def State.dfill (s : State) (i a : Nat) : State :=
  let l := filledLine s.cfg.dtagUnit (a / 32) (s.dfillBytes a)
    (s.injectedBits injDcTag (27 - Nat.log2 s.cfg.dtagUnit)) (s.injectedBits injDcDat 256)
  (((busReadState s.cfg.dlineRam s (a / 32 * 32) 32).setDline i l).injectionDone injDcTag).injectionDone injDcDat

/-- The line that holds `a` made present at index `i`: nothing on a hit, eviction and fill on a miss, which answers the bytes
read from memory (20_memory.md R125). A 2-bit error of the tag raises (60_exceptions.md R491); one of an invalid line is not met
(log 44). -/
def dpresent (va : Word) (i a : Nat) (s : State) : Flow (Option (List Byte)) :=
  let l := s.dline i
  if l.valid then
    if s.eccRead l.tagEcc = .fatal then .stop (raise (.eccData va) (s.dtagRead i l))
    else if s.lineTag l = a / 32 then .ok none (s.dtagRead i l)
    else .ok (some (((s.dtagRead i l).evict i).dfillBytes a)) (((s.dtagRead i l).evict i).dfill i a)
  else .ok (some (s.dfillBytes a)) (s.dfill i a)

/-- What reading the data of a present line delivers: as `eccRead`, but a 2-bit error of a clean line is recovered by
refetching it (60_exceptions.md R491). -/
def State.ddataRead (s : State) (l : CacheLine) : EccRead :=
  if l.dataEcc == .double && !l.dirty && s.eccOn then .corrected else s.eccRead l.dataEcc

/-- A load of `n` bytes through the data cache (20_memory.md R110 step 4, R125). A load that fills the line takes the bytes from
memory, so that an error which the fill injects is met by the next one (60_exceptions.md R495, 95_test_vectors.md section 2.6;
a load that hits injects none, log 44). A 1-bit error of a clean line is recovered as a 2-bit one is, by refetching the line, and
signals DCDAT_RE too (log 44). -/
def dcacheRead (va : Word) (a n : Nat) (s : State) : Flow (List Byte) :=
  let i := lineIndex s.cfg.dcacheSize va.toNat
  (dpresent va i a s).andThen fun filled s1 =>
    match filled with
    | some data => .ok ((data.drop (a % 32)).take n) s1
    | none =>
      let l := s1.dline i
      match s1.ddataRead l with
      | .clean => .ok (lineBytes l (a % 32) n) s1
      | .corrected =>
        if l.dirty then
          .ok ((l.fixedData.drop (a % 32)).take n)
            ((s1.setDline i { l with data := l.fixedData, dataEcc := .none }).signal 15)
        else .ok (((s1.dfillBytes a).drop (a % 32)).take n) ((s1.dfill i a).signal 15)
      | .fatal => .stop (raise (.eccData va) (s1.signal 16))
      | .garbage => .ok (freeBytes s1.draws n) (s1.drawn.signal 16)

/-- The line at index `i` after `bs` is stored at the physical address `a`: dirty, with the injection of DCDAT in the word
stored to, and of DCTAG where the dirty bit was not yet set, which writes the tag again (20_memory.md R125, 60_exceptions.md
R495). One mark covers the 32 bytes, and an injection in the tag is never in its valid or dirty bit (log 44). -/
def State.dstore (s : State) (i a : Nat) (bs : List Byte) : State :=
  let l := s.dline i
  let bits := (s.injectedBits injDcDat 32).map (fun k => a % 32 / 4 * 32 + k)
  let s1 := s.injectionDone injDcDat
  let old := l.dataEcc.overwritten (8 * (a % 32)) (8 * bs.length)
  let data := (old.injectionFlips bits).foldl flipBytes (patchBytes l.data (a % 32) bs)
  let l1 := { l with dirty := true, stored := true, data := data, dataEcc := old.withInjection bits }
  if l.dirty then s1.setDline i l1
  else
    let tagBits := s1.injectedBits injDcTag (27 - Nat.log2 s.cfg.dtagUnit)
    (s1.injectionDone injDcTag).setDline i
      { l1 with line := tagBits.foldl (flipTag s.cfg.dtagUnit) (a / 32), tagEcc := markOf tagBits }

/-- A store through the data cache: the line allocated on a miss, then written (20_memory.md R111, R125). -/
def dcacheWrite (va : Word) (a : Nat) (bs : List Byte) (s : State) : Flow Unit :=
  let i := lineIndex s.cfg.dcacheSize va.toNat
  (dpresent va i a s).andThen fun _ s1 => .ok () (s1.dstore i a bs)

/-- The valid bit of the data line at index `i` cleared: a write of the tag RAM (60_exceptions.md R495, log 44). -/
def State.dinvalidate (s : State) (i : Nat) : State :=
  let bits := s.injectedBits injDcTag (27 - Nat.log2 s.cfg.dtagUnit)
  (s.setDline i { s.dline i with
    valid := false, dirty := false, line := bits.foldl (flipTag s.cfg.dtagUnit) (s.dline i).line, tagEcc := markOf bits
    }).injectionDone injDcTag

/-- `DCacheFlushLine` (20_memory.md R126): the tag is read only to write the line back, so a 2-bit error of the tag of a
clean line is not met (log 44). -/
def State.dcacheFlushLine (s : State) (addr : Word) : State :=
  if s.cfg.dcacheSize = 0 then s
  else
    let i := lineIndex s.cfg.dcacheSize addr.toNat
    ((if (s.dline i).dirty then s.dtagRead i (s.dline i) else s).evict i).dinvalidate i

/-- `DCacheInitLine` (20_memory.md R128). -/
def State.dcacheInitLine (s : State) (addr : Word) : State :=
  if s.cfg.dcacheSize = 0 then s else s.dinvalidate (lineIndex s.cfg.dcacheSize addr.toNat)

/-- The tag comparison of `flushda` and `initda`: whether the data cache holds the physical address `a`, indexed by
`addr`; a tightly-coupled memory is never cached (20_memory.md R103, R127). A 2-bit error of the tag raises
(60_exceptions.md R491, R496; log 44). -/
def dcacheCompare (addr : Word) (a : Nat) (s : State) : Flow Bool :=
  let i := lineIndex s.cfg.dcacheSize addr.toNat
  let l := s.dline i
  if s.cfg.dcacheSize = 0 || !l.valid || s.cfg.tightlyCoupled a then .ok false s
  else if s.eccRead l.tagEcc = .fatal then .stop (raise (.eccData addr) (s.dtagRead i l))
  else .ok (s.lineTag l == a / 32) (s.dtagRead i l)

/-- `DCacheFlushAddr` (20_memory.md R127). -/
def dcacheFlushAddr (addr : Word) (a : Nat) (s : State) : Flow Unit :=
  let i := lineIndex s.cfg.dcacheSize addr.toNat
  (dcacheCompare addr a s).andThen fun hit s1 => .ok () (if hit then (s1.evict i).dinvalidate i else s1)

/-- `DCacheInitAddr` (20_memory.md R129). -/
def dcacheInitAddr (addr : Word) (a : Nat) (s : State) : Flow Unit :=
  let i := lineIndex s.cfg.dcacheSize addr.toNat
  (dcacheCompare addr a s).andThen fun hit s1 => .ok () (if hit then s1.dinvalidate i else s1)

/-! ## The instruction cache (20_memory.md R132) -/

/-- The 32 bytes that a line fill of the instruction cache reads at the line of the physical address `a`; those of a
tightly-coupled memory are free (20_memory.md R103, R132). -/
def State.ifillBytes (s : State) (a : Nat) : List Byte := busBytes s.cfg.ilineRam s (a / 32 * 32) 32

/-- The state after a line fill of the instruction cache, with the injections of ICTAG and ICDAT (60_exceptions.md R495); that of
ICTAG is in the bits of the line address, never in the valid bit (log 44). -/
def State.ifill (s : State) (i a : Nat) : State :=
  let l := filledLine s.cfg.itagUnit (a / 32) (s.ifillBytes a)
    (s.injectedBits injIcTag (27 - Nat.log2 s.cfg.itagUnit)) (s.injectedBits injIcDat 256)
  (((busReadState s.cfg.ilineRam s (a / 32 * 32) 32).setIline i l).injectionDone injIcTag).injectionDone injIcDat

/-- The signals of an instruction line that is fetched again (60_exceptions.md R496). -/
def State.isignal (s : State) (l : CacheLine) : State :=
  let s1 := if l.tagEcc = .none then s else s.signal 3
  if l.dataEcc = .none then s1 else s1.signal 4

/-- The word at `a` fetched through the instruction cache, indexed by `va` (20_memory.md R132). A fetch that fills the line
takes the word from memory, so that an error which the fill injects is met by the next one (60_exceptions.md R495). Any fetch of
the index reads the tag and the data of the line there, so an error of a valid line is signalled whether or not its tag matches:
R496 is silent (DESIGN CHOICE, log 44). -/
def icacheRead (va : Word) (a : Nat) (s : State) : Flow (List Byte) :=
  let i := lineIndex s.cfg.icacheSize va.toNat
  let l := s.iline i
  if l.valid && !s.irefetch l && l.line == a / 32 then .ok (lineBytes l (a % 32) 4) s
  else
    let s1 := if l.valid && s.irefetch l then s.isignal l else s
    .ok (((s1.ifillBytes a).drop (a % 32)).take 4) (s1.ifill i a)

/-- The state after the instruction cache certainly holds no line at index `i`: what was read ahead there may be in the pipeline
still, for a fetch by that index and no other (20_memory.md R133, R136, R145). -/
def State.aheadFlushed (s : State) (i : Nat) : State :=
  { s with
    prefetched := addWords (fun k => (s.aheadAt i k).map (fun w => (i, w))) s.prefetched (s.readAhead.map Prod.fst),
    readAhead := s.readAhead.foldl (fun m e => sparseSet [] m e.1 (e.2.filter (fun x => x.1 != i))) s.readAhead }

/-- `ICacheInvalidateLine` (20_memory.md R132). -/
def State.icacheInvalidateLine (s : State) (addr : Word) : State :=
  if s.cfg.icacheSize = 0 then s
  else
    let i := lineIndex s.cfg.icacheSize addr.toNat
    (s.setIline i { s.iline i with valid := false }).aheadFlushed i

end Sys2Proof.Machine
end

