-- ==== Sys2Proof/Machine/Access.lean ====
section
/-! DEFINITION. The access primitives MemRead, MemWrite, their io forms, Fetch, and the translation they go through
(20_memory.md R110 to R115, 21_mmu_mpu.md R150). -/

namespace Sys2Proof.Machine

open Sys2Proof

/-- `addr = r[A] + sext_16(IMM16)` modulo 2^32 (20_memory.md R115). -/
def State.effAddr (s : State) (a : RegIdx) (imm16 : BitVec 16) : Word := s.reg a + sext imm16

/-! ## Translation (21_mmu_mpu.md R150) -/

/-- Step 1 of `TranslateData`: a user-mode access to a supervisor-only address (21_mmu_mpu.md R154, R167). -/
def userAddressCheck (va : Word) (s : State) : Flow Unit :=
  if s.cfg.mmu && stU s.status && bit va 31 then .stop (raise (.supervisorOnlyDataAddr va) s) else .ok () s

/-- The physical address of a data access without an MMU: the bypass bit removed (20_memory.md R104, R121). -/
def flatPhysical (c : Config) (va : Word) : Nat := (if c.bypass31 then va &&& 0x7FFFFFFF#32 else va).toNat

/-- Whether a peripheral region holds the physical address (20_memory.md R122). -/
def inPeriph (c : Config) (a : Nat) : Bool :=
  match c.periphRegion with
  | some g => g.has a
  | none => false

/-- Cacheability without an MMU: not by the bypass bit, not in the peripheral region, and by MT where the MPU supplies
one; MT = 3 is a free choice (20_memory.md R121, R122, R124, U7, log 24). -/
def flatCacheable (s : State) (va : Word) (a : Nat) (mt : Option (BitVec 2)) : Bool :=
  !(s.cfg.bypass31 && bit va 31) && !inPeriph s.cfg a &&
  match mt with
  | none => true
  | some m => m == 1#2 || (m == 3#2 && Config.freeBool s.draws 0)

/-- `TranslateData` after step 1 (21_mmu_mpu.md R150, R167, R176): the physical address and whether a non-io access may
be cached. -/
def translateData (va : Word) (kind : AccessKind) (s : State) : Flow (Nat × Bool) :=
  if s.cfg.mmu then mmuData va kind s
  else
    let a := flatPhysical s.cfg va
    (mpuData va a kind s).andThen fun mt s1 =>
      .ok (a, flatCacheable s1 va a mt) (if mt == some 3#2 then s1.drawn else s1)

/-! ## Data access (20_memory.md R110 to R112) -/

/-- Whether an access of the data side goes to the cache: cacheable, not an io form, a cache present, and not in a
tightly-coupled memory (20_memory.md R103, R110 step 3, R112). -/
def usesDcache (c : Config) (io cacheable : Bool) (a : Nat) : Bool :=
  cacheable && !io && c.dcacheSize != 0 && !inTcm c.itcms a

/-- The read of `n` aligned bytes at the physical address `a` (20_memory.md R110 steps 3 and 4). -/
def physRead (va : Word) (io cacheable : Bool) (a n : Nat) (s : State) : Flow (List Byte) :=
  match tcmNumber s.cfg.dtcms a with
  | some k => tcmRead s.cfg.dataRam (.eccData va) (22 + 2 * k) (23 + 2 * k) a n s
  | none =>
    if usesDcache s.cfg io cacheable a then dcacheRead va a n s
    else .ok (busBytes s.cfg.dataRam s a n) (busReadState s.cfg.dataRam s a n)

/-- The write of the aligned bytes `bs` at the physical address `a` (20_memory.md R111). -/
def physWrite (va : Word) (io cacheable : Bool) (a : Nat) (bs : List Byte) (s : State) : Flow Unit :=
  match tcmNumber s.cfg.dtcms a with
  | some k => .ok () (s.tcmWrite k a bs)
  | none =>
    if usesDcache s.cfg io cacheable a then dcacheWrite va a bs s
    else .ok () (s.busWrite a bs)

/-- Whether an address is a multiple of the width `n` (20_memory.md R108). -/
def aligned (va : Word) (n : Nat) : Bool := va.toNat % n == 0

/-- Whether the platform maps all of the `n` bytes from the physical address `a` up (20_memory.md R105, U4). -/
def allMapped (c : Config) (a n : Nat) : Bool := (List.range n).all (fun k => c.dataMapped (a + k))

/-- `MemRead` and `MemReadIO` with what the load makes of it (20_memory.md R110, R112, 40_data_transfer.md R241): the `n`
bytes at `va`, extended. The destination takes "any value" where the platform maps nothing at a byte of the access (U4,
log 20) and at a misaligned address where the check is off (R108, U5, log 22); with the check on, that raises. -/
def memRead (io : Bool) (va : Word) (n : Nat) (extend : Word → Word) (s : State) : Flow Word :=
  (userAddressCheck va s).andThen fun _ s =>
    if aligned va n then
      (translateData va .load s).andThen fun t s1 =>
        (physRead va io t.2 t.1 n s1).andThen fun bs s2 =>
          if allMapped s.cfg t.1 n then .ok (extend (wordOfByteList bs)) s2
          else .ok (Config.freeWord s2.draws) s2.drawn
    else if s.cfg.misalignedChecked then .stop (raise (.misalignedData va) s)
    else .ok (Config.freeWord s.draws) s.drawn

/-- `va` rounded down to a multiple of `n`. -/
def alignDown (va : Word) (n : Nat) : Word := va - BitVec.ofNat 32 (va.toNat % n)

/-- The store of the bytes `bs` at an aligned address (20_memory.md R111). -/
def alignedWrite (io : Bool) (va : Word) (bs : List Byte) (s : State) : Flow Unit :=
  (translateData va .store s).andThen fun t s1 => physWrite va io t.2 t.1 bs s1

/-- The low `n` bytes of a word, as a store writes them (20_memory.md R107, R111). -/
def storeBytes (v : Word) (n : Nat) : List Byte := (bytesOfWord v).take n

/-- The `n` bytes of the aligned unit at `va` made free: in memory and, where the access would go through the data cache
and a line holds them, in that line, each with a value of its own; nothing is raised (U5, log 22). On a core with ECC the mark of
the word in memory becomes what an aligned store of the data master leaves of it, with no injection, and the marks of the line
stay (DESIGN CHOICE, log 22). Nothing else changes. Only a core without MMU and MPU comes here. -/
def State.scramble (s : State) (io : Bool) (va : Word) (n : Nat) : State :=
  let p := flatPhysical s.cfg va
  let i := lineIndex s.cfg.dcacheSize va.toNat
  let l := s.dline i
  let s1 := State.drawn { s with mem := busStore s.cfg.dataRam s.mem p (freeBytes s.draws n), tcmEcc := s.marksWritten p n }
  if usesDcache s.cfg io (flatCacheable s va p none) p && (tcmNumber s.cfg.dtcms p).isNone && l.valid && l.line == p / 32 then
    (s1.setDline i { l with data := patchBytes l.data (p % 32) (freeBytes s1.draws n) }).drawn
  else s1

/-- Both units made free, the one of `va` and its successor; the pipeline may still hold their old words (log 39). -/
def State.scrambleBoth (s : State) (io : Bool) (va : Word) (n : Nat) : State :=
  let u := alignDown va n
  let v := u + BitVec.ofNat 32 n
  s.keepPrefetched ((s.scramble io u n).scramble io v n) (wordsOf (flatPhysical s.cfg u) n ++ wordsOf (flatPhysical s.cfg v) n)

/-- `MemWrite` and `MemWriteIO` (20_memory.md R111, R112). A misaligned address raises; where the check is off, the bytes
of the aligned unit that holds `va` and of its successor take free values (R108, U5, log 22). -/
def memWrite (io : Bool) (va : Word) (n : Nat) (v : Word) (s : State) : Flow Unit :=
  (userAddressCheck va s).andThen fun _ s =>
    if aligned va n then alignedWrite io va (storeBytes v n) s
    else if s.cfg.misalignedChecked then .stop (raise (.misalignedData va) s)
    else .ok () (s.scrambleBoth io va n)

/-- `CacheOpTranslate` (46_other_control.md R405): the translation of `flushda` and `initda`. -/
def cacheOpTranslate (va : Word) (kind : AccessKind) (s : State) : Flow Nat :=
  (userAddressCheck va s).andThen fun _ s =>
    (translateData va kind s).andThen fun t s1 => .ok t.1 s1

/-! ## Instruction fetch (20_memory.md R113) -/

/-- An exception of the fetch that ranks below an ECC register-file error (60_exceptions.md R441 ranks 7 and 8). -/
inductive LateExc where
  /-- An MPU instruction region violation, cause 16 (21_mmu_mpu.md R176). -/
  | mpuInstr
  /-- A 2-bit error of a word of instruction tightly-coupled memory number `k`, cause 19 (60_exceptions.md R491). -/
  | eccFetch (k : Nat)
deriving DecidableEq, Repr

/-- A late exception of the fetch taken. ITCMn_UE is signalled with cause 19 and not before, since of an exception that loses to a
higher one 60_exceptions.md R441 says that it leaves no trace (R496). -/
def State.takeLate (s : State) : LateExc → State
  | .mpuInstr => s.take .mpuInstr
  | .eccFetch k => (s.signal (6 + 2 * k)).take .eccFetch

/-- A fetched word, and a late exception of its fetch, under which the word only says which registers are read
(60_exceptions.md R441, log 55). -/
structure Fetched where
  word : Word
  late : Option LateExc
deriving DecidableEq, Repr

/-- The read of the instruction word at the physical address `a` (20_memory.md R113): an ITCM error that raises does so late, and
leaves nothing else (60_exceptions.md R441). -/
def physFetch (va : Word) (a : Nat) (s : State) : Flow Fetched :=
  match tcmNumber s.cfg.itcms a with
  | some k =>
    match s.eccRead (s.tcmMark a) with
    | .fatal => .ok { word := wordOfByteList (busBytes s.cfg.fetchRam s a 4), late := some (.eccFetch k) } s
    | _ => (tcmRead s.cfg.fetchRam .eccFetch (5 + 2 * k) (6 + 2 * k) a 4 s).andThen fun bs s1 =>
        .ok { word := wordOfByteList bs, late := none } s1
  | none =>
    if s.cfg.icacheSize != 0 && !inTcm s.cfg.dtcms a then
      (icacheRead va a s).andThen fun bs s1 => .ok { word := wordOfByteList bs, late := none } s1
    else
      .ok { word := wordOfByteList (busBytes s.cfg.fetchRam s a 4), late := none } (busReadState s.cfg.fetchRam s a 4)

/-- What the instruction cache may hold otherwise than `icache` shows of the word at the physical address `a`, fetched at the
index of `va`: an old word read ahead of execution, or memory's word, where its line was filled again since; and, where the
data cache holds the word changed and not yet written back, that one (20_memory.md R101, R111, R133, U8; log 39). -/
def State.cachedOtherwise (s : State) (va : Word) (a : Nat) : List Word :=
  let ahead := s.aheadAt (lineIndex s.cfg.icacheSize va.toNat) (a / 4)
  let unflushed := (s.dcache.filter (fun l => l.valid && l.stored && l.line == a / 32)).map (fun l => l.word (a / 4))
  (if ahead = [] then [] else ahead ++ [s.instrWord (a / 4)]) ++ unflushed.filter (fun w => w != s.instrWord (a / 4))

/-- The index by which a fetch of the physical address `a` at `va` goes: that of the instruction cache, 0 where none of its lines may
hold the word (20_memory.md R132, log 39). -/
def fetchIndex (c : Config) (va : Word) (a : Nat) : Nat :=
  if c.ihomes (a / 4) = [] then 0 else lineIndex c.icacheSize va.toNat

/-- The words besides the one that memory and the caches give that a fetch of the physical address `a` at `va` may deliver
(20_memory.md R133, R145, U8; log 39). No cache holds a tightly-coupled memory (R103). -/
def State.otherWords (s : State) (va : Word) (a : Nat) : List Word :=
  s.prefetchedAt (fetchIndex s.cfg va a) (a / 4) ++ if s.cfg.tightlyCoupled a then [] else s.cachedOtherwise va a

/-- The fetch of the instruction word at the physical address `a`: that of memory and the caches or, by a free choice, another
that the pipeline or a cache may hold (20_memory.md R133, U8; log 39). -/
def fetchAt (va : Word) (a : Nat) (s : State) : Flow Fetched :=
  (physFetch va a s).andThen fun f s1 =>
    if s.otherWords va a = [] then .ok f s1
    else .ok { f with word := (s.otherWords va a).getD (Config.freeNat s1.draws) f.word } s1.drawn

/-- `Fetch(pc)` (20_memory.md R113, 21_mmu_mpu.md R150, R168, R176). An MPU violation raises late, and then no state but
that of the exception changes (21_mmu_mpu.md R177). -/
def fetch (s : State) : Flow Fetched :=
  if field s.pc 0 2 = 0#2 then
    if s.cfg.mmu then (mmuFetch s.pc s).andThen fun a s1 => fetchAt s.pc a s1
    else
      (mpuFetch s.pc s).andThen fun violates s1 =>
        (fetchAt s.pc s.pc.toNat s1).andThen fun w s2 =>
          if violates then .ok { w with late := some .mpuInstr } s1 else .ok w s2
  else .stop (.fault .misalignedFetch)

end Sys2Proof.Machine
end

