-- ==== Sys2Proof/Machine/Control.lean ====
section
/-! DEFINITION. `ReadCtl` and `WriteCtl`: the control registers as `rdctl` and `wrctl` see them (10_state.md section 4,
46_other_control.md R395, R396). -/

namespace Sys2Proof.Machine

open Sys2Proof

/-- The implemented bits of `config`: PE with an MPU, ANI with the EIC interface and shadow sets, ECCEN and ECCEXE with
ECC (10_state.md R61). -/
def configMask (c : Config) : Word :=
  flagMask c.mpu 0 ||| flagMask (c.eic && decide (0 < c.shadowSets)) 1 ||| flagMask c.ecc 2 ||| flagMask c.ecc 3

/-- The value of a register that exists where `present` holds; a reserved one reads 0 (10_state.md R47, D2). -/
def whenPresent (present : Bool) (v : Word) : Word := if present then v else 0#32

/-- The old values of injections that the next `rdctl eccinj` still returns: for each field, by a free choice, the old
value or none (70_reset_and_hazards.md R543, log 44). -/
def State.eccinjSeen (s : State) : Word :=
  (List.range 11).foldl
    (fun w k => if Config.freeBool s.draws k then w ||| (s.eccinjOld &&& place 3#2 (2 * k)) else w) 0#32

/-- The state after `rdctl` reads register `n`: a field of `eccinj` once read as 0 stays so
(70_reset_and_hazards.md R543). -/
def State.ctlRead (s : State) (n : BitVec 5) : State :=
  if n = 11#5 ∧ s.cfg.ecc = true ∧ s.eccinjOld ≠ 0#32 then { s with eccinjOld := s.eccinjSeen, draws := s.draws + 1 } else s

/-- `ReadCtl` (46_other_control.md R395, 10_state.md R29). -/
def State.readCtl (s : State) (n : BitVec 5) : Word :=
  match n with
  | 0#5 => s.status
  | 1#5 => s.estatus
  | 2#5 => s.bstatus
  | 3#5 => whenPresent (!s.cfg.eic) s.ienable
  | 4#5 => whenPresent (!s.cfg.eic) (s.irq &&& s.ienable)
  | 5#5 => s.cfg.cpuId
  | 7#5 => whenPresent s.cfg.isF s.exception
  | 8#5 => whenPresent s.cfg.mmu s.pteaddr
  | 9#5 => whenPresent s.cfg.mmu s.tlbacc
  | 10#5 => whenPresent s.cfg.mmu s.tlbmisc
  | 11#5 => whenPresent s.cfg.ecc (if s.eccinjOld = 0#32 then s.eccinj else s.eccinj ||| s.eccinjSeen)
  | 12#5 => whenPresent s.cfg.isF s.badaddr
  | 13#5 => s.config &&& configMask s.cfg
  | 14#5 => whenPresent s.cfg.mpu s.mpubase
  | 15#5 => whenPresent s.cfg.mpu s.mpuacc
  | _ => 0#32

/-- `wrctl status`: the writable implemented fields; NMI and CRS keep their values (10_state.md R40). -/
def State.writeStatus (s : State) (v : Word) : State :=
  { s with status :=
      s.cfg.normStatus ((v &&& s.cfg.statusWritable) ||| (s.status &&& ~~~s.cfg.statusWritable)) }

/-- A write that takes effect where the register exists; a reserved register ignores it (10_state.md R47, D2). -/
def writeWhen (present : Bool) (s s1 : State) : Flow Unit := .ok () (if present then s1 else s)

/-- The state after the pipeline flush of `wrctl`: "wrctl instructions to the mpubase and mpuacc control registers do not
automatically flush the pipeline" (20_memory.md R145, 70_reset_and_hazards.md R542), on a core without an MPU, where the two
numbers are reserved, as well (log 46). -/
def State.flushedBy (s : State) (n : BitVec 5) : State :=
  if n = 14#5 ∨ n = 15#5 then s else s.pipelineFlushed

/-- `WriteCtl` (46_other_control.md R396). -/
def State.writeCtl (s : State) (n : BitVec 5) (v : Word) : Flow Unit :=
  match n with
  | 0#5 => .ok () (s.writeStatus v)
  | 1#5 => .ok () { s with estatus := s.cfg.normStatus v }
  | 2#5 => .ok () { s with bstatus := s.cfg.normStatus v }
  | 3#5 => writeWhen (!s.cfg.eic) s { s with ienable := v }
  | 8#5 => writeWhen s.cfg.mmu s { s with pteaddr := v &&& 0xFFFFFFFC#32 }
  | 9#5 => writeWhen s.cfg.mmu s (s.writeTlbacc v)
  | 10#5 => writeWhen s.cfg.mmu s (s.writeTlbmisc v)
  | 11#5 => writeWhen s.cfg.ecc s { s with eccinj := v &&& 0x003FFFFF#32 }
  | 13#5 => .ok () { s with config := v &&& configMask s.cfg }
  | 14#5 => writeWhen s.cfg.mpu s { s with mpubase := mpubaseWritten s.cfg v }
  | 15#5 => if s.cfg.mpu then s.writeMpuacc v else .ok () s
  | _ => .ok () s

end Sys2Proof.Machine
end

