-- ==== Sys2Proof/Machine/Operands.lean ====
section
/-! DEFINITION. The operand forms of the instructions: which registers a word reads, how each immediate becomes a 32-bit
operand, where each result goes (30_encoding.md R205, R209, R213). -/

namespace Sys2Proof.Machine

open Sys2Proof

/-! ## Two-operand forms -/

/-- An R-type operation `r[C] <- f(r[A], r[B])`. -/
def opRRR (f : Word → Word → Word) (c a b : RegIdx) (s : State) : Result := s.finish c (f (s.reg a) (s.reg b))

/-- An I-type operation with a sign-extended immediate: `r[B] <- f(r[A], sext_16(IMM16))` (30_encoding.md R205). -/
def opRRSext (f : Word → Word → Word) (b a : RegIdx) (imm16 : BitVec 16) (s : State) : Result :=
  s.finish b (f (s.reg a) (sext imm16))

/-- An I-type operation with a zero-extended immediate: `r[B] <- f(r[A], zext_16(IMM16))` (30_encoding.md R205). -/
def opRRZext (f : Word → Word → Word) (b a : RegIdx) (imm16 : BitVec 16) (s : State) : Result :=
  s.finish b (f (s.reg a) (zext imm16))

/-- An I-type operation with the immediate in the high half: `r[B] <- f(r[A], IMM16 : 0x0000)` (30_encoding.md R205). -/
def opRRHigh (f : Word → Word → Word) (b a : RegIdx) (imm16 : BitVec 16) (s : State) : Result :=
  s.finish b (f (s.reg a) (hiHalf imm16))

/-- A shift or rotate by a register: `r[C] <- f(r[A], r[B][4:0])` (44_shift_rotate.md R350). -/
def opShiftReg (f : Word → Nat → Word) (c a b : RegIdx) (s : State) : Result :=
  s.finish c (f (s.reg a) (field (s.reg b) 0 5).toNat)

/-- A shift or rotate by IMM5: `r[C] <- f(r[A], IMM5)` (44_shift_rotate.md R350). -/
def opShiftImm (f : Word → Nat → Word) (c a : RegIdx) (imm5 : BitVec 5) (s : State) : Result :=
  s.finish c (f (s.reg a) imm5.toNat)

/-! ## Loads and stores (40_data_transfer.md R241) -/

/-- `r[B] <- extend(MemRead(r[A] + sext_16(IMM16), n))`, or the io form; register 0 as 40_data_transfer.md R259 says of a
load (`State.setLoaded`, log 38). -/
def opLoad (io : Bool) (n : Nat) (extend : Word → Word) (b a : RegIdx) (imm16 : BitVec 16) (s : State) : Result :=
  (memRead io (s.effAddr a imm16) n extend s).bind fun v s1 => s1.finishLoad b v

/-- `MemWrite(r[A] + sext_16(IMM16), n, r[B])`, or the io form. -/
def opStore (io : Bool) (n : Nat) (b a : RegIdx) (imm16 : BitVec 16) (s : State) : Result :=
  (memWrite io (s.effAddr a imm16) n (s.reg b) s).bind fun _ s1 => .next s1.advance

/-- `sext_8` of a loaded byte (40_data_transfer.md R242). -/
def extendByte (v : Word) : Word := sext (field v 0 8)

/-- `sext_16` of a loaded halfword (40_data_transfer.md R246). -/
def extendHalf (v : Word) : Word := sext (field v 0 16)

/-- A value already zero-extended: `zext_8`, `zext_16`, or a whole word (40_data_transfer.md R244, R248, R250). -/
def extendZero (v : Word) : Word := v

/-! ## Targets (45_program_control.md R362, R369) -/

/-- The target of a branch: `pc + 4 + sext_16(IMM16)` modulo 2^32 (45_program_control.md R362). -/
def State.branchTarget (s : State) (imm16 : BitVec 16) : Word := s.nextPc + sext imm16

/-- The target of `call` and `jmpi`: `pc[31:28] : IMM26 : 0b00` (45_program_control.md R369). -/
def State.callTarget (s : State) (imm26 : BitVec 26) : Word := place (field s.pc 28 4) 28 ||| place imm26 2

/-! ## The registers an instruction reads (for ECC, 60_exceptions.md R491) -/

/-- A register read as rA or rB: register set and index. -/
abbrev RegRef := Nat × RegIdx

/-- The registers an instruction reads as rA or rB. `eret` reads r29, and r30 in a shadow set; `bret` reads r30 of the
normal set; `rdprs` reads a register of the previous set (60_exceptions.md R491, R470, R472; log 44). -/
def sources (i : Instr) (s : State) : List RegRef :=
  match i with
  | .ldb _ a _ | .ldbio _ a _ | .ldbu _ a _ | .ldbuio _ a _ | .ldh _ a _ | .ldhio _ a _ | .ldhu _ a _
  | .ldhuio _ a _ | .ldw _ a _ | .ldwio _ a _ => [(s.crs, a)]
  | .stb b a _ | .stbio b a _ | .sth b a _ | .sthio b a _ | .stw b a _ | .stwio b a _ => [(s.crs, a), (s.crs, b)]
  | .add _ a b | .sub _ a b | .and _ a b | .or _ a b | .xor _ a b | .nor _ a b | .mul _ a b | .mulxss _ a b
  | .mulxsu _ a b | .mulxuu _ a b | .div _ a b | .divu _ a b => [(s.crs, a), (s.crs, b)]
  | .addi _ a _ | .andi _ a _ | .andhi _ a _ | .ori _ a _ | .orhi _ a _ | .xori _ a _ | .xorhi _ a _
  | .muli _ a _ => [(s.crs, a)]
  | .cmpeq _ a b | .cmpne _ a b | .cmpge _ a b | .cmpgeu _ a b | .cmplt _ a b | .cmpltu _ a b =>
    [(s.crs, a), (s.crs, b)]
  | .cmpeqi _ a _ | .cmpnei _ a _ | .cmpgei _ a _ | .cmpgeui _ a _ | .cmplti _ a _ | .cmpltui _ a _ => [(s.crs, a)]
  | .rol _ a b | .ror _ a b | .sll _ a b | .srl _ a b | .sra _ a b => [(s.crs, a), (s.crs, b)]
  | .roli _ a _ | .slli _ a _ | .srli _ a _ | .srai _ a _ => [(s.crs, a)]
  | .br _ | .call _ | .jmpi _ | .nextpc _ | .trap _ | .brk _ | .rdctl _ _ | .flushp | .sync => []
  | .callr a | .jmp a => [(s.crs, a)]
  | .ret => [(s.crs, 31#5)]
  | .beq a b _ | .bne a b _ | .bge a b _ | .bgeu a b _ | .blt a b _ | .bltu a b _ => [(s.crs, a), (s.crs, b)]
  | .eret => if s.crs = 0 then [(0, 29#5)] else [(s.crs, 29#5), (s.crs, 30#5)]
  | .bret => [(0, 30#5)]
  | .wrctl _ a | .flushd a _ | .flushda a _ | .initd a _ | .initda a _ | .flushi a | .initi a | .wrprs _ a =>
    [(s.crs, a)]
  | .rdprs _ a _ => [(s.prs, a)]
  | .custom _ readra readrb _ _ a b =>
    (if readra then [(s.crs, a)] else []) ++ (if readrb then [(s.crs, b)] else [])

/-- Whether a check made before any operand ends the instruction: `SupervisorCheck` of the eight supervisor-only instructions in user
mode, "made at decode, before any operand is read or any effect occurs" (46_other_control.md R391); that `rdprs` and `wrprs` need
shadow sets (R411, R412); and that the core has the instruction, an exception "raised before any operand is used"
(41_arith_logic.md R293, 46_other_control.md R403). -/
def trapsAtDecode (i : Instr) (s : State) : Bool :=
  match i with
  | .initd _ _ | .initi _ | .eret | .bret | .rdctl _ _ | .wrctl _ _ => stU s.status
  | .rdprs _ _ _ | .wrprs _ _ => stU s.status || s.cfg.shadowSets == 0
  | .mul _ _ _ | .muli _ _ _ => !s.cfg.mulImplemented
  | .mulxss _ _ _ | .mulxsu _ _ _ | .mulxuu _ _ _ => !s.cfg.mulxImplemented
  | .div _ _ _ | .divu _ _ _ => !s.cfg.divImplemented
  | .initda _ _ => !s.cfg.initdaImplemented
  | .ldb _ _ _ | .ldbio _ _ _ | .ldbu _ _ _ | .ldbuio _ _ _ | .ldh _ _ _ | .ldhio _ _ _ | .ldhu _ _ _
  | .ldhuio _ _ _ | .ldw _ _ _ | .ldwio _ _ _ | .stb _ _ _ | .stbio _ _ _ | .sth _ _ _ | .sthio _ _ _ | .stw _ _ _
  | .stwio _ _ _ | .add _ _ _ | .sub _ _ _ | .and _ _ _ | .or _ _ _ | .xor _ _ _ | .nor _ _ _ | .addi _ _ _
  | .andi _ _ _ | .andhi _ _ _ | .ori _ _ _ | .orhi _ _ _ | .xori _ _ _ | .xorhi _ _ _
  | .cmpeq _ _ _ | .cmpne _ _ _ | .cmpge _ _ _ | .cmpgeu _ _ _ | .cmplt _ _ _ | .cmpltu _ _ _ | .cmpeqi _ _ _
  | .cmpnei _ _ _ | .cmpgei _ _ _ | .cmpgeui _ _ _ | .cmplti _ _ _ | .cmpltui _ _ _
  | .rol _ _ _ | .roli _ _ _ | .ror _ _ _ | .sll _ _ _ | .slli _ _ _ | .srl _ _ _ | .srli _ _ _ | .sra _ _ _ | .srai _ _ _
  | .br _ | .beq _ _ _ | .bne _ _ _ | .bge _ _ _ | .bgeu _ _ _ | .blt _ _ _ | .bltu _ _ _ | .call _ | .callr _ | .jmp _
  | .jmpi _ | .ret | .nextpc _ | .trap _ | .brk _ | .flushd _ _ | .flushda _ _ | .flushi _ | .flushp | .sync
  | .custom _ _ _ _ _ _ _ => false

/-- The ECC mark of a register; register 0 of the normal set has none. -/
def State.rfMark (s : State) (r : RegRef) : EccMark :=
  if r.1 = 0 ∧ r.2 = 0#5 then .none else sparseGet EccMark.none s.rfEcc (rfKey r.1 r.2)

/-- The effect of reading one register: a 1-bit error is corrected, a 2-bit error raises or, with ECCEXE = 0, makes the value
any; with ECCEN = 0 the register reads as its RAM holds it (60_exceptions.md R490, R491, R496, U25; log 35). A correction through one
operand port mends the register for both (DESIGN CHOICE, log 44). -/
def readSource (r : RegRef) (s : State) : Flow Unit :=
  match s.eccRead (s.rfMark r) with
  | .clean => .ok () s
  | .corrected =>
    .ok () (State.signal { s.storeGpr r.1 r.2 ((s.rfMark r).wrongBits.foldl flipWord (s.getGpr r.1 r.2)) with
      rfEcc := sparseSet EccMark.none s.rfEcc (rfKey r.1 r.2) EccMark.none } 1)
  | .fatal => .stop (raise .eccRegisterFile (s.signal 2))
  | .garbage => .ok () ((s.storeGpr r.1 r.2 (Config.freeWord s.draws)).drawn.signal 2)

/-- The reading of the source registers, in order. -/
def readSources : List RegRef → State → Flow Unit
  | [], s => .ok () s
  | r :: rs, s => (readSource r s).andThen fun _ s1 => readSources rs s1

end Sys2Proof.Machine
end

