-- ==== Sys2Proof/Machine/Flags.lean ====
section
/-! DEFINITION. The Nios II has no flags and no condition codes (10_state.md R28): "Every instruction rule's 'flags
written' entry is therefore 'none'". What stands in their place: the relations that comparisons write as 0 or 1 and
branches test (43_compare.md R332). -/

namespace Sys2Proof.Machine

open Sys2Proof

/-- The value a comparison writes: "the full 32-bit value 0x00000001 or 0x00000000, never -1" (43_compare.md R332). -/
def truth (p : Bool) : Word := if p then 1#32 else 0#32

/-- `==`. -/
def relEq (x y : Word) : Bool := x == y
/-- `!=`. -/
def relNe (x y : Word) : Bool := x != y
/-- Signed `>=`. -/
def relGe (x y : Word) : Bool := decide (y.toInt ≤ x.toInt)
/-- Unsigned `>=`. -/
def relGeu (x y : Word) : Bool := decide (y.toNat ≤ x.toNat)
/-- Signed `<`. -/
def relLt (x y : Word) : Bool := decide (x.toInt < y.toInt)
/-- Unsigned `<`. -/
def relLtu (x y : Word) : Bool := decide (x.toNat < y.toNat)

/-- `r[C] <- (r[A] rel r[B]) ? 1 : 0`. -/
def opCompare (rel : Word → Word → Bool) (c a b : RegIdx) (s : State) : Result :=
  opRRR (fun x y => truth (rel x y)) c a b s

/-- `r[B] <- (r[A] rel sext_16(IMM16)) ? 1 : 0` (43_compare.md R310). -/
def opCompareSext (rel : Word → Word → Bool) (b a : RegIdx) (imm16 : BitVec 16) (s : State) : Result :=
  opRRSext (fun x y => truth (rel x y)) b a imm16 s

/-- `r[B] <- (r[A] rel zext_16(IMM16)) ? 1 : 0` (43_compare.md R310). -/
def opCompareZext (rel : Word → Word → Bool) (b a : RegIdx) (imm16 : BitVec 16) (s : State) : Result :=
  opRRZext (fun x y => truth (rel x y)) b a imm16 s

/-- A conditional branch (45_program_control.md section 3). Not taken, it falls through; with a misaligned offset and the
check on, whether it raises is a free choice (45_program_control.md R361, D17, U19, log 31). -/
def opBranch (rel : Word → Word → Bool) (a b : RegIdx) (imm16 : BitVec 16) (s : State) : Result :=
  if rel (s.reg a) (s.reg b) then transfer (s.branchTarget imm16) s s
  else if field (s.branchTarget imm16) 0 2 = 0#2 ∨ s.cfg.misalignedChecked = false then .next s.advance
  else if Config.freeBool s.draws 0 then raise (.misalignedDest (s.branchTarget imm16)) s.drawn
  else .next s.drawn.advance

end Sys2Proof.Machine
end

