-- ==== Sys2Proof/Machine/ArithLogic.lean ====
section
/-! DEFINITION. The arithmetic and logical instructions (41_arith_logic.md). -/

namespace Sys2Proof.Machine

open Sys2Proof

/-- `((signed) x * (signed) y)[63:32]` (41_arith_logic.md R282). -/
def mulHighSS (x y : Word) : Word := BitVec.ofInt 32 (x.toInt * y.toInt / 2 ^ 32)

/-- `((signed) x * (unsigned) y)[63:32]` (41_arith_logic.md R283). -/
def mulHighSU (x y : Word) : Word := BitVec.ofInt 32 (x.toInt * (y.toNat : Int) / 2 ^ 32)

/-- `((unsigned) x * (unsigned) y)[63:32]` (41_arith_logic.md R284). -/
def mulHighUU (x y : Word) : Word := BitVec.ofNat 32 (x.toNat * y.toNat / 2 ^ 32)

/-- The error cases of `div` (41_arith_logic.md R294). -/
def divError (x y : Word) : Bool := y == 0#32 || (x == 0x80000000#32 && y == 0xFFFFFFFF#32)

/-- The error case of `divu` (41_arith_logic.md R294). -/
def divuError (y : Word) : Bool := y == 0#32

/-- The signed quotient truncated toward zero (41_arith_logic.md R294). -/
def quotSigned (x y : Word) : Word := BitVec.ofInt 32 (Int.tdiv x.toInt y.toInt)

/-- The unsigned quotient (41_arith_logic.md R286). -/
def quotUnsigned (x y : Word) : Word := BitVec.ofNat 32 (x.toNat / y.toNat)

/-- A division: the unimplemented exception; in an error case the division error, or, where that check is off, a free
value in rC (41_arith_logic.md R293, R294, U18, log 30); else the quotient. -/
def opDivide (error : Bool) (quotient : Word) (c : RegIdx) (s : State) : Result :=
  whenImplemented s.cfg.divImplemented s
    (if error then
      if s.cfg.divErrChecked then raise .divisionError s else s.drawn.finish c (Config.freeWord s.draws)
    else s.finish c quotient)

/-- `add rC, rA, rB` (41_arith_logic.md R270). -/
def execAdd (c a b : RegIdx) (s : State) : Result := opRRR (fun x y => x + y) c a b s

/-- `addi rB, rA, IMM16` (41_arith_logic.md R271). -/
def execAddi (b a : RegIdx) (imm16 : BitVec 16) (s : State) : Result := opRRSext (fun x y => x + y) b a imm16 s

/-- `sub rC, rA, rB` (41_arith_logic.md R272). -/
def execSub (c a b : RegIdx) (s : State) : Result := opRRR (fun x y => x - y) c a b s

/-- `and rC, rA, rB` (41_arith_logic.md R274). -/
def execAnd (c a b : RegIdx) (s : State) : Result := opRRR (fun x y => x &&& y) c a b s

/-- `andi rB, rA, IMM16` (41_arith_logic.md R275). -/
def execAndi (b a : RegIdx) (imm16 : BitVec 16) (s : State) : Result := opRRZext (fun x y => x &&& y) b a imm16 s

/-- `andhi rB, rA, IMM16` (41_arith_logic.md R276). -/
def execAndhi (b a : RegIdx) (imm16 : BitVec 16) (s : State) : Result := opRRHigh (fun x y => x &&& y) b a imm16 s

/-- `or rC, rA, rB` (41_arith_logic.md R277). -/
def execOr (c a b : RegIdx) (s : State) : Result := opRRR (fun x y => x ||| y) c a b s

/-- `ori rB, rA, IMM16` (41_arith_logic.md R278). -/
def execOri (b a : RegIdx) (imm16 : BitVec 16) (s : State) : Result := opRRZext (fun x y => x ||| y) b a imm16 s

/-- `orhi rB, rA, IMM16` (41_arith_logic.md R279). -/
def execOrhi (b a : RegIdx) (imm16 : BitVec 16) (s : State) : Result := opRRHigh (fun x y => x ||| y) b a imm16 s

/-- `xor rC, rA, rB` (41_arith_logic.md R287). -/
def execXor (c a b : RegIdx) (s : State) : Result := opRRR (fun x y => x ^^^ y) c a b s

/-- `xori rB, rA, IMM16` (41_arith_logic.md R288). -/
def execXori (b a : RegIdx) (imm16 : BitVec 16) (s : State) : Result := opRRZext (fun x y => x ^^^ y) b a imm16 s

/-- `xorhi rB, rA, IMM16` (41_arith_logic.md R289). -/
def execXorhi (b a : RegIdx) (imm16 : BitVec 16) (s : State) : Result := opRRHigh (fun x y => x ^^^ y) b a imm16 s

/-- `nor rC, rA, rB` (41_arith_logic.md R290). -/
def execNor (c a b : RegIdx) (s : State) : Result := opRRR (fun x y => ~~~(x ||| y)) c a b s

/-- `mul rC, rA, rB` (41_arith_logic.md R280). -/
def execMul (c a b : RegIdx) (s : State) : Result :=
  whenImplemented s.cfg.mulImplemented s (opRRR (fun x y => x * y) c a b s)

/-- `muli rB, rA, IMM16` (41_arith_logic.md R281). -/
def execMuli (b a : RegIdx) (imm16 : BitVec 16) (s : State) : Result :=
  whenImplemented s.cfg.mulImplemented s (opRRSext (fun x y => x * y) b a imm16 s)

/-- `mulxss rC, rA, rB` (41_arith_logic.md R282). -/
def execMulxss (c a b : RegIdx) (s : State) : Result :=
  whenImplemented s.cfg.mulxImplemented s (opRRR mulHighSS c a b s)

/-- `mulxsu rC, rA, rB` (41_arith_logic.md R283). -/
def execMulxsu (c a b : RegIdx) (s : State) : Result :=
  whenImplemented s.cfg.mulxImplemented s (opRRR mulHighSU c a b s)

/-- `mulxuu rC, rA, rB` (41_arith_logic.md R284). -/
def execMulxuu (c a b : RegIdx) (s : State) : Result :=
  whenImplemented s.cfg.mulxImplemented s (opRRR mulHighUU c a b s)

/-- `div rC, rA, rB` (41_arith_logic.md R285). -/
def execDiv (c a b : RegIdx) (s : State) : Result :=
  opDivide (divError (s.reg a) (s.reg b)) (quotSigned (s.reg a) (s.reg b)) c s

/-- `divu rC, rA, rB` (41_arith_logic.md R286). -/
def execDivu (c a b : RegIdx) (s : State) : Result :=
  opDivide (divuError (s.reg b)) (quotUnsigned (s.reg a) (s.reg b)) c s


end Sys2Proof.Machine
end

