-- ==== Sys2Proof/Machine/Compare.lean ====
section
/-! DEFINITION. The comparison instructions (43_compare.md). -/

namespace Sys2Proof.Machine

open Sys2Proof

/-- `cmpeq rC, rA, rB` (43_compare.md R311). -/
def execCmpeq (c a b : RegIdx) (s : State) : Result := opCompare relEq c a b s

/-- `cmpne rC, rA, rB` (43_compare.md R313). -/
def execCmpne (c a b : RegIdx) (s : State) : Result := opCompare relNe c a b s

/-- `cmpge rC, rA, rB` (43_compare.md R315). -/
def execCmpge (c a b : RegIdx) (s : State) : Result := opCompare relGe c a b s

/-- `cmpgeu rC, rA, rB` (43_compare.md R317). -/
def execCmpgeu (c a b : RegIdx) (s : State) : Result := opCompare relGeu c a b s

/-- `cmplt rC, rA, rB` (43_compare.md R319). -/
def execCmplt (c a b : RegIdx) (s : State) : Result := opCompare relLt c a b s

/-- `cmpltu rC, rA, rB` (43_compare.md R321). -/
def execCmpltu (c a b : RegIdx) (s : State) : Result := opCompare relLtu c a b s

/-- `cmpeqi rB, rA, IMM16` (43_compare.md R312). -/
def execCmpeqi (b a : RegIdx) (imm16 : BitVec 16) (s : State) : Result := opCompareSext relEq b a imm16 s

/-- `cmpnei rB, rA, IMM16` (43_compare.md R314). -/
def execCmpnei (b a : RegIdx) (imm16 : BitVec 16) (s : State) : Result := opCompareSext relNe b a imm16 s

/-- `cmpgei rB, rA, IMM16` (43_compare.md R316). -/
def execCmpgei (b a : RegIdx) (imm16 : BitVec 16) (s : State) : Result := opCompareSext relGe b a imm16 s

/-- `cmpgeui rB, rA, IMM16` (43_compare.md R318). -/
def execCmpgeui (b a : RegIdx) (imm16 : BitVec 16) (s : State) : Result := opCompareZext relGeu b a imm16 s

/-- `cmplti rB, rA, IMM16` (43_compare.md R320). -/
def execCmplti (b a : RegIdx) (imm16 : BitVec 16) (s : State) : Result := opCompareSext relLt b a imm16 s

/-- `cmpltui rB, rA, IMM16` (43_compare.md R330). -/
def execCmpltui (b a : RegIdx) (imm16 : BitVec 16) (s : State) : Result := opCompareZext relLtu b a imm16 s


end Sys2Proof.Machine
end

