-- ==== Sys2Proof/Machine/CustomInstr.lean ====
section
/-! DEFINITION. The custom instruction (47_custom_nop.md). -/

namespace Sys2Proof.Machine

open Sys2Proof

/-- What `custom` presents to the logic (47_custom_nop.md R420). -/
def State.customCall (s : State) (n : BitVec 8) (readra readrb writerc : Bool) (c a b : RegIdx) : CustomCall :=
  { n := n, valA := s.reg a, valB := s.reg b, a := a, b := b, c := c, readra := readra, readrb := readrb,
    writerc := writerc, logic := s.customState }

/-- `custom N, xC, xA, xB` (47_custom_nop.md R420, U22, log 12): the logic's result goes to rC where writerc is 1. -/
def execCustom (n : BitVec 8) (readra readrb writerc : Bool) (c a b : RegIdx) (s : State) : Result :=
  let q := s.customCall n readra readrb writerc c a b
  let s1 := { s with customState := Config.customNext q }
  if writerc then s1.finish c (Config.customResult q) else .next s1.advance


end Sys2Proof.Machine
end

