-- ==== Sys2Proof/Machine/DataTransfer.lean ====
section
/-! DEFINITION. The data transfer instructions (40_data_transfer.md). -/

namespace Sys2Proof.Machine

open Sys2Proof

/-- `ldb rB, byte_offset(rA)` (40_data_transfer.md R242). -/
def execLdb (b a : RegIdx) (imm16 : BitVec 16) (s : State) : Result := opLoad false 1 extendByte b a imm16 s

/-- `ldbio rB, byte_offset(rA)` (40_data_transfer.md R243). -/
def execLdbio (b a : RegIdx) (imm16 : BitVec 16) (s : State) : Result := opLoad true 1 extendByte b a imm16 s

/-- `ldbu rB, byte_offset(rA)` (40_data_transfer.md R244). -/
def execLdbu (b a : RegIdx) (imm16 : BitVec 16) (s : State) : Result := opLoad false 1 extendZero b a imm16 s

/-- `ldbuio rB, byte_offset(rA)` (40_data_transfer.md R245). -/
def execLdbuio (b a : RegIdx) (imm16 : BitVec 16) (s : State) : Result := opLoad true 1 extendZero b a imm16 s

/-- `ldh rB, byte_offset(rA)` (40_data_transfer.md R246). -/
def execLdh (b a : RegIdx) (imm16 : BitVec 16) (s : State) : Result := opLoad false 2 extendHalf b a imm16 s

/-- `ldhio rB, byte_offset(rA)` (40_data_transfer.md R247). -/
def execLdhio (b a : RegIdx) (imm16 : BitVec 16) (s : State) : Result := opLoad true 2 extendHalf b a imm16 s

/-- `ldhu rB, byte_offset(rA)` (40_data_transfer.md R248). -/
def execLdhu (b a : RegIdx) (imm16 : BitVec 16) (s : State) : Result := opLoad false 2 extendZero b a imm16 s

/-- `ldhuio rB, byte_offset(rA)` (40_data_transfer.md R249). -/
def execLdhuio (b a : RegIdx) (imm16 : BitVec 16) (s : State) : Result := opLoad true 2 extendZero b a imm16 s

/-- `ldw rB, byte_offset(rA)` (40_data_transfer.md R250). -/
def execLdw (b a : RegIdx) (imm16 : BitVec 16) (s : State) : Result := opLoad false 4 extendZero b a imm16 s

/-- `ldwio rB, byte_offset(rA)` (40_data_transfer.md R251). -/
def execLdwio (b a : RegIdx) (imm16 : BitVec 16) (s : State) : Result := opLoad true 4 extendZero b a imm16 s

/-- `stb rB, byte_offset(rA)` (40_data_transfer.md R252). -/
def execStb (b a : RegIdx) (imm16 : BitVec 16) (s : State) : Result := opStore false 1 b a imm16 s

/-- `stbio rB, byte_offset(rA)` (40_data_transfer.md R253). -/
def execStbio (b a : RegIdx) (imm16 : BitVec 16) (s : State) : Result := opStore true 1 b a imm16 s

/-- `sth rB, byte_offset(rA)` (40_data_transfer.md R254). -/
def execSth (b a : RegIdx) (imm16 : BitVec 16) (s : State) : Result := opStore false 2 b a imm16 s

/-- `sthio rB, byte_offset(rA)` (40_data_transfer.md R255). -/
def execSthio (b a : RegIdx) (imm16 : BitVec 16) (s : State) : Result := opStore true 2 b a imm16 s

/-- `stw rB, byte_offset(rA)` (40_data_transfer.md R256). -/
def execStw (b a : RegIdx) (imm16 : BitVec 16) (s : State) : Result := opStore false 4 b a imm16 s

/-- `stwio rB, byte_offset(rA)` (40_data_transfer.md R257). -/
def execStwio (b a : RegIdx) (imm16 : BitVec 16) (s : State) : Result := opStore true 4 b a imm16 s


end Sys2Proof.Machine
end

