-- ==== Sys2Proof/Machine/OtherControl.lean ====
section
/-! DEFINITION. The other control instructions (46_other_control.md). -/

namespace Sys2Proof.Machine

open Sys2Proof

/-- The start of `rdprs` and `wrprs`: without shadow sets an illegal instruction, which user mode may see as a
supervisor-only one (U21, log 33); else supervisor-only; then `status.PRS` must name an implemented set (U1, log 17)
(46_other_control.md R391, R411, R412). -/
def previousSetAccess (s : State) (rest : Result) : Result :=
  if s.cfg.shadowSets = 0 then
    if stU s.status then
      if Config.freeBool s.draws 0 then raise .supervisorOnlyInstr s.drawn else illegalInstruction s.drawn
    else illegalInstruction s
  else supervisorOnly s (if s.prs ≤ s.cfg.shadowSets then rest else .fault .unimplementedRegisterSet)

/-- `eret` (46_other_control.md R392). -/
def execEret (s : State) : Result := supervisorOnly s s.exceptionReturn

/-- `bret` (46_other_control.md R393). -/
def execBret (s : State) : Result := supervisorOnly s s.breakReturn

/-- `break imm5` (46_other_control.md R394): "The 5-bit immediate field imm5 is ignored by the processor". -/
def execBrk (_imm5 : BitVec 5) (s : State) : Result := .next s.breakEntry

/-- `rdctl rC, ctlN` (46_other_control.md R395). -/
def execRdctl (c : RegIdx) (n : BitVec 5) (s : State) : Result := supervisorOnly s ((s.ctlRead n).finish c (s.readCtl n))

/-- `wrctl ctlN, rA` (46_other_control.md R396), which flushes the pipeline but for `mpubase` and `mpuacc`
(20_memory.md R145). -/
def execWrctl (n : BitVec 5) (a : RegIdx) (s : State) : Result :=
  supervisorOnly s ((s.writeCtl n (s.reg a)).bind fun _ s1 => .next (s1.flushedBy n).advance)

/-- `flushd IMM16(rA)` (46_other_control.md R397). -/
def execFlushd (a : RegIdx) (imm16 : BitVec 16) (s : State) : Result :=
  .next (s.dcacheFlushLine (s.effAddr a imm16)).advance

/-- `flushda IMM16(rA)` (46_other_control.md R398). -/
def execFlushda (a : RegIdx) (imm16 : BitVec 16) (s : State) : Result :=
  (cacheOpTranslate (s.effAddr a imm16) .flushda s).bind fun p s1 =>
    (dcacheFlushAddr (s.effAddr a imm16) p s1).bind fun _ s2 => .next s2.advance

/-- `initd IMM16(rA)` (46_other_control.md R400). -/
def execInitd (a : RegIdx) (imm16 : BitVec 16) (s : State) : Result :=
  supervisorOnly s (.next (s.dcacheInitLine (s.effAddr a imm16)).advance)

/-- `initda IMM16(rA)` (46_other_control.md R403). -/
def execInitda (a : RegIdx) (imm16 : BitVec 16) (s : State) : Result :=
  whenImplemented s.cfg.initdaImplemented s
    ((cacheOpTranslate (s.effAddr a imm16) .initda s).bind fun p s1 =>
      (dcacheInitAddr (s.effAddr a imm16) p s1).bind fun _ s2 => .next s2.advance)

/-- `flushi rA` (46_other_control.md R399). -/
def execFlushi (a : RegIdx) (s : State) : Result := .next (s.icacheInvalidateLine (s.reg a)).advance

/-- `initi rA` (46_other_control.md R404). -/
def execIniti (a : RegIdx) (s : State) : Result :=
  supervisorOnly s (.next (s.icacheInvalidateLine (s.reg a)).advance)

/-- `flushp` (46_other_control.md R407): "discard every instruction word fetched but not yet executed". -/
def execFlushp (s : State) : Result := .next s.pipelineFlushed.advance

/-- `sync` (46_other_control.md R408, 20_memory.md R142): no effect where each access completes within its instruction
(log 40). -/
def execSync (s : State) : Result := .next s.advance

/-- `rdprs rB, rA, IMM16` (46_other_control.md R411). -/
def execRdprs (b a : RegIdx) (imm16 : BitVec 16) (s : State) : Result :=
  previousSetAccess s (s.finish b (s.getGpr s.prs a + sext imm16))

/-- `wrprs rC, rA` (46_other_control.md R412), which flushes the pipeline (20_memory.md R145). -/
def execWrprs (c a : RegIdx) (s : State) : Result :=
  previousSetAccess s (.next (s.setGpr s.prs c (s.reg a)).pipelineFlushed.advance)


end Sys2Proof.Machine
end

