-- ==== Sys2Proof/Machine/ProgramControl.lean ====
section
/-! DEFINITION. The program control instructions (45_program_control.md). -/

namespace Sys2Proof.Machine

open Sys2Proof

/-- `br label` (45_program_control.md R363). -/
def execBr (imm16 : BitVec 16) (s : State) : Result := transfer (s.branchTarget imm16) s s

/-- `call label` (45_program_control.md R369). -/
def execCall (imm26 : BitVec 26) (s : State) : Result :=
  .next { s.setReg 31#5 s.nextPc with pc := s.callTarget imm26 }

/-- `callr rA` (45_program_control.md R370). -/
def execCallr (a : RegIdx) (s : State) : Result := transfer (s.reg a) (s.setReg 31#5 s.nextPc) s

/-- `jmp rA` (45_program_control.md R371); `jmp r31` is refused (U20, log 32). -/
def execJmp (a : RegIdx) (s : State) : Result :=
  if jmpRegisterOk a then transfer (s.reg a) s s else .refused .jmpR31

/-- `jmpi label` (45_program_control.md R372). -/
def execJmpi (imm26 : BitVec 26) (s : State) : Result := .next { s with pc := s.callTarget imm26 }

/-- `ret` (45_program_control.md R374). -/
def execRet (s : State) : Result := transfer (s.reg 31#5) s s

/-- `nextpc rC` (45_program_control.md R373). -/
def execNextpc (c : RegIdx) (s : State) : Result := s.finish c s.nextPc

/-- `beq rA, rB, label` (45_program_control.md R364). -/
def execBeq (a b : RegIdx) (imm16 : BitVec 16) (s : State) : Result := opBranch relEq a b imm16 s

/-- `bne rA, rB, label` (45_program_control.md R365). -/
def execBne (a b : RegIdx) (imm16 : BitVec 16) (s : State) : Result := opBranch relNe a b imm16 s

/-- `bge rA, rB, label` (45_program_control.md R366). -/
def execBge (a b : RegIdx) (imm16 : BitVec 16) (s : State) : Result := opBranch relGe a b imm16 s

/-- `bgeu rA, rB, label` (45_program_control.md R367). -/
def execBgeu (a b : RegIdx) (imm16 : BitVec 16) (s : State) : Result := opBranch relGeu a b imm16 s

/-- `blt rA, rB, label` (45_program_control.md R368). -/
def execBlt (a b : RegIdx) (imm16 : BitVec 16) (s : State) : Result := opBranch relLt a b imm16 s

/-- `bltu rA, rB, label` (45_program_control.md R375). -/
def execBltu (a b : RegIdx) (imm16 : BitVec 16) (s : State) : Result := opBranch relLtu a b imm16 s

/-- `trap imm5` (45_program_control.md R376): "The 5-bit immediate field imm5 is ignored by the processor". -/
def execTrap (_imm5 : BitVec 5) (s : State) : Result := raise .trap s


end Sys2Proof.Machine
end

