-- ==== Sys2Proof/Machine/ShiftRotate.lean ====
section
/-! DEFINITION. The shift and rotate instructions (44_shift_rotate.md). -/

namespace Sys2Proof.Machine

open Sys2Proof

/-- `shl(x, n)` (44_shift_rotate.md R350). -/
def shl (x : Word) (n : Nat) : Word := x <<< n

/-- `shrl(x, n)` (44_shift_rotate.md R350). -/
def shrl (x : Word) (n : Nat) : Word := x >>> n

/-- `shra(x, n)` (44_shift_rotate.md R350). -/
def shra (x : Word) (n : Nat) : Word := x.sshiftRight n

/-- `rotl(x, n)` (44_shift_rotate.md R350). -/
def rotl (x : Word) (n : Nat) : Word := shl x n ||| shrl x ((32 - n) % 32)

/-- `rotr(x, n)` (44_shift_rotate.md R350). -/
def rotr (x : Word) (n : Nat) : Word := rotl x ((32 - n) % 32)

/-- `rol rC, rA, rB` (44_shift_rotate.md R341). -/
def execRol (c a b : RegIdx) (s : State) : Result := opShiftReg rotl c a b s

/-- `ror rC, rA, rB` (44_shift_rotate.md R343). -/
def execRor (c a b : RegIdx) (s : State) : Result := opShiftReg rotr c a b s

/-- `sll rC, rA, rB` (44_shift_rotate.md R344). -/
def execSll (c a b : RegIdx) (s : State) : Result := opShiftReg shl c a b s

/-- `srl rC, rA, rB` (44_shift_rotate.md R348). -/
def execSrl (c a b : RegIdx) (s : State) : Result := opShiftReg shrl c a b s

/-- `sra rC, rA, rB` (44_shift_rotate.md R346). -/
def execSra (c a b : RegIdx) (s : State) : Result := opShiftReg shra c a b s

/-- `roli rC, rA, IMM5` (44_shift_rotate.md R342). -/
def execRoli (c a : RegIdx) (imm5 : BitVec 5) (s : State) : Result := opShiftImm rotl c a imm5 s

/-- `slli rC, rA, IMM5` (44_shift_rotate.md R345). -/
def execSlli (c a : RegIdx) (imm5 : BitVec 5) (s : State) : Result := opShiftImm shl c a imm5 s

/-- `srli rC, rA, IMM5` (44_shift_rotate.md R349). -/
def execSrli (c a : RegIdx) (imm5 : BitVec 5) (s : State) : Result := opShiftImm shrl c a imm5 s

/-- `srai rC, rA, IMM5` (44_shift_rotate.md R347). -/
def execSrai (c a : RegIdx) (imm5 : BitVec 5) (s : State) : Result := opShiftImm shra c a imm5 s


end Sys2Proof.Machine
end

