-- ==== Sys2Proof/Machine/Dispatch.lean ====
section
/-! DEFINITION. The meaning of every instruction: one arm per constructor of Instr. -/

namespace Sys2Proof.Machine

open Sys2Proof

def exec (i : Instr) (s : State) : Host.Outcome State Fault Refusal :=
  match i with
  -- Data transfer (40_data_transfer.md)
  | .ldb b a imm16 => Sys2Proof.Machine.execLdb b a imm16 s
  | .ldbio b a imm16 => Sys2Proof.Machine.execLdbio b a imm16 s
  | .ldbu b a imm16 => Sys2Proof.Machine.execLdbu b a imm16 s
  | .ldbuio b a imm16 => Sys2Proof.Machine.execLdbuio b a imm16 s
  | .ldh b a imm16 => Sys2Proof.Machine.execLdh b a imm16 s
  | .ldhio b a imm16 => Sys2Proof.Machine.execLdhio b a imm16 s
  | .ldhu b a imm16 => Sys2Proof.Machine.execLdhu b a imm16 s
  | .ldhuio b a imm16 => Sys2Proof.Machine.execLdhuio b a imm16 s
  | .ldw b a imm16 => Sys2Proof.Machine.execLdw b a imm16 s
  | .ldwio b a imm16 => Sys2Proof.Machine.execLdwio b a imm16 s
  | .stb b a imm16 => Sys2Proof.Machine.execStb b a imm16 s
  | .stbio b a imm16 => Sys2Proof.Machine.execStbio b a imm16 s
  | .sth b a imm16 => Sys2Proof.Machine.execSth b a imm16 s
  | .sthio b a imm16 => Sys2Proof.Machine.execSthio b a imm16 s
  | .stw b a imm16 => Sys2Proof.Machine.execStw b a imm16 s
  | .stwio b a imm16 => Sys2Proof.Machine.execStwio b a imm16 s
  -- Arithmetic and logical (41_arith_logic.md)
  | .add c a b => Sys2Proof.Machine.execAdd c a b s
  | .addi b a imm16 => Sys2Proof.Machine.execAddi b a imm16 s
  | .sub c a b => Sys2Proof.Machine.execSub c a b s
  | .and c a b => Sys2Proof.Machine.execAnd c a b s
  | .andi b a imm16 => Sys2Proof.Machine.execAndi b a imm16 s
  | .andhi b a imm16 => Sys2Proof.Machine.execAndhi b a imm16 s
  | .or c a b => Sys2Proof.Machine.execOr c a b s
  | .ori b a imm16 => Sys2Proof.Machine.execOri b a imm16 s
  | .orhi b a imm16 => Sys2Proof.Machine.execOrhi b a imm16 s
  | .xor c a b => Sys2Proof.Machine.execXor c a b s
  | .xori b a imm16 => Sys2Proof.Machine.execXori b a imm16 s
  | .xorhi b a imm16 => Sys2Proof.Machine.execXorhi b a imm16 s
  | .nor c a b => Sys2Proof.Machine.execNor c a b s
  | .mul c a b => Sys2Proof.Machine.execMul c a b s
  | .muli b a imm16 => Sys2Proof.Machine.execMuli b a imm16 s
  | .mulxss c a b => Sys2Proof.Machine.execMulxss c a b s
  | .mulxsu c a b => Sys2Proof.Machine.execMulxsu c a b s
  | .mulxuu c a b => Sys2Proof.Machine.execMulxuu c a b s
  | .div c a b => Sys2Proof.Machine.execDiv c a b s
  | .divu c a b => Sys2Proof.Machine.execDivu c a b s
  -- Comparison (43_compare.md)
  | .cmpeq c a b => Sys2Proof.Machine.execCmpeq c a b s
  | .cmpne c a b => Sys2Proof.Machine.execCmpne c a b s
  | .cmpge c a b => Sys2Proof.Machine.execCmpge c a b s
  | .cmpgeu c a b => Sys2Proof.Machine.execCmpgeu c a b s
  | .cmplt c a b => Sys2Proof.Machine.execCmplt c a b s
  | .cmpltu c a b => Sys2Proof.Machine.execCmpltu c a b s
  | .cmpeqi b a imm16 => Sys2Proof.Machine.execCmpeqi b a imm16 s
  | .cmpnei b a imm16 => Sys2Proof.Machine.execCmpnei b a imm16 s
  | .cmpgei b a imm16 => Sys2Proof.Machine.execCmpgei b a imm16 s
  | .cmpgeui b a imm16 => Sys2Proof.Machine.execCmpgeui b a imm16 s
  | .cmplti b a imm16 => Sys2Proof.Machine.execCmplti b a imm16 s
  | .cmpltui b a imm16 => Sys2Proof.Machine.execCmpltui b a imm16 s
  -- Shift and rotate (44_shift_rotate.md)
  | .rol c a b => Sys2Proof.Machine.execRol c a b s
  | .roli c a imm5 => Sys2Proof.Machine.execRoli c a imm5 s
  | .ror c a b => Sys2Proof.Machine.execRor c a b s
  | .sll c a b => Sys2Proof.Machine.execSll c a b s
  | .slli c a imm5 => Sys2Proof.Machine.execSlli c a imm5 s
  | .srl c a b => Sys2Proof.Machine.execSrl c a b s
  | .srli c a imm5 => Sys2Proof.Machine.execSrli c a imm5 s
  | .sra c a b => Sys2Proof.Machine.execSra c a b s
  | .srai c a imm5 => Sys2Proof.Machine.execSrai c a imm5 s
  -- Program control (45_program_control.md)
  | .br imm16 => Sys2Proof.Machine.execBr imm16 s
  | .call imm26 => Sys2Proof.Machine.execCall imm26 s
  | .callr a => Sys2Proof.Machine.execCallr a s
  | .jmp a => Sys2Proof.Machine.execJmp a s
  | .jmpi imm26 => Sys2Proof.Machine.execJmpi imm26 s
  | .ret => Sys2Proof.Machine.execRet s
  | .nextpc c => Sys2Proof.Machine.execNextpc c s
  | .beq a b imm16 => Sys2Proof.Machine.execBeq a b imm16 s
  | .bne a b imm16 => Sys2Proof.Machine.execBne a b imm16 s
  | .bge a b imm16 => Sys2Proof.Machine.execBge a b imm16 s
  | .bgeu a b imm16 => Sys2Proof.Machine.execBgeu a b imm16 s
  | .blt a b imm16 => Sys2Proof.Machine.execBlt a b imm16 s
  | .bltu a b imm16 => Sys2Proof.Machine.execBltu a b imm16 s
  | .trap imm5 => Sys2Proof.Machine.execTrap imm5 s
  -- Other control (46_other_control.md)
  | .eret => Sys2Proof.Machine.execEret s
  | .bret => Sys2Proof.Machine.execBret s
  | .brk imm5 => Sys2Proof.Machine.execBrk imm5 s
  | .rdctl c n => Sys2Proof.Machine.execRdctl c n s
  | .wrctl n a => Sys2Proof.Machine.execWrctl n a s
  | .flushd a imm16 => Sys2Proof.Machine.execFlushd a imm16 s
  | .flushda a imm16 => Sys2Proof.Machine.execFlushda a imm16 s
  | .initd a imm16 => Sys2Proof.Machine.execInitd a imm16 s
  | .initda a imm16 => Sys2Proof.Machine.execInitda a imm16 s
  | .flushi a => Sys2Proof.Machine.execFlushi a s
  | .initi a => Sys2Proof.Machine.execIniti a s
  | .flushp => Sys2Proof.Machine.execFlushp s
  | .sync => Sys2Proof.Machine.execSync s
  | .rdprs b a imm16 => Sys2Proof.Machine.execRdprs b a imm16 s
  | .wrprs c a => Sys2Proof.Machine.execWrprs c a s
  -- Custom (47_custom_nop.md)
  | .custom n readra readrb writerc c a b => Sys2Proof.Machine.execCustom n readra readrb writerc c a b s

end Sys2Proof.Machine
end

