-- ==== Sys2Proof/Machine/Boundary.lean ====
section
/-! DEFINITION. One step of a run: what the processor takes at an instruction boundary, in the order of 60_exceptions.md
R440, and otherwise the fetch and execution of the instruction at `pc`. -/

namespace Sys2Proof.Machine

open Sys2Proof

/-! ## Reset (70_reset_and_hazards.md R520, R522)

"The reset state is undefined for all other system components": every register, entry and line that R520 does not name
takes a free value, "fixed thereafter until written" (D8, log 42). -/

/-- A register set of free values; `k` numbers the set. -/
def freeRegs (draw k : Nat) : RegFile := Vector.ofFn (fun i => Config.freeWordAt draw (32 * k + i.val))

/-- A free ECC mark, on a core that has ECC. -/
def freeMark (c : Config) (draw k : Nat) : EccMark :=
  if c.ecc then
    if Config.freeBool draw (2 * k) then .single ((Config.freeWordAt draw k).toNat % 512)
    else if Config.freeBool draw (2 * k + 1) then .double else .none
  else .none

/-- A free TLB entry, each of its fields free by itself. -/
def freeTlbEntry (c : Config) (draw k : Nat) : TlbEntry :=
  let w := Config.freeWordAt draw (3 * k)
  { tag := tlbTag c (field w 12 20), pid := field (Config.freeWordAt draw (3 * k + 1)) 0 14 &&& pidMask c, g := bit w 0,
    pfn := field (Config.freeWordAt draw (3 * k + 2)) 0 20,
    c := bit w 1, r := bit w 2, w := bit w 3, x := bit w 4, ecc := freeMark c (draw + 9) k }

/-- A free MPU region: the implemented bits of its fields; `d` says a data region. -/
def freeRegion (c : Config) (d : Bool) (draw k : Nat) : MpuRegion :=
  regionOf (mpubaseWritten c (setBit (Config.freeWordAt draw (2 * k)) 0 d))
    (mpuaccWritten c d (Config.freeWordAt draw (2 * k + 1)))

/-- A free cache line at index `i` of a cache of `n` lines: its physical line agrees with the index in the bits that
translation keeps (20_memory.md R125). `dirty` says a data line. -/
def freeLine (c : Config) (dirty : Bool) (n draw i : Nat) : CacheLine :=
  let m := c.tagUnit n
  { valid := Config.freeBool draw (3 * i), dirty := dirty && Config.freeBool draw (3 * i + 1), stored := false,
    line := (Config.freeWordAt draw i).toNat / 32 / m * m + i % m,
    data := (List.range 32).map (fun k => Config.freeByte draw (32 * i + k)),
    tagEcc := freeMark c (draw + 1) (2 * i), dataEcc := freeMark c (draw + 1) (2 * i + 1) }

/-- Free ECC marks for a list of keys. -/
def freeMarks (c : Config) (draw : Nat) (keys : List Nat) : List (Nat × EccMark) :=
  keys.foldl (fun m k => sparseSet EccMark.none m k (freeMark c draw k)) []

/-- The keys of the words of the tightly-coupled memories. -/
def tcmKeys (ts : List Span) : List Nat := ts.flatMap (fun t => (List.range (t.size / 4)).map (fun k => t.base / 4 + k))

/-- The instruction cache after reset: indeterminate, but for the line of the reset vector, which is invalid
(70_reset_and_hazards.md R520 step 2). -/
def resetIcache (c : Config) (draw : Nat) : List CacheLine :=
  let n := c.icacheSize / 32
  let i := lineIndex c.icacheSize (c.vector c.resetAddr).toNat
  ((List.range n).map (freeLine c false n draw)).modify i (fun l => { l with valid := false })

/-- The bits of `badaddr` a configuration implements: all with an MMU or an MPU, else those of the wider of the two
address spaces (10_state.md R60). -/
def badaddrMask (c : Config) : Word :=
  if c.mmu || c.mpu then BitVec.allOnes 32 else lowMask (max c.daddrWidth c.iaddrWidth)

/-- `Reset()` (70_reset_and_hazards.md R520) on the processor alone: memory, tightly-coupled memory with the ECC state of
its words, and the environment's inputs are kept (R522, log 42); the EIC latch holds no request (D25, log 10), so that its
handler address and register set are seen by nothing. -/
def State.resetCore (s : State) : State :=
  let c := s.cfg
  let d := s.draws
  { s with
    pc := c.vector c.resetAddr,
    gpr := freeRegs d 0,
    shadow := (List.range c.shadowSets).map (fun k => freeRegs d (k + 1)),
    status := resetStatus,
    estatus := c.normStatus (Config.freeWordAt (d + 1) 0),
    bstatus := c.normStatus (Config.freeWordAt (d + 1) 1),
    ienable := Config.freeWordAt (d + 1) 2,
    exception := Config.freeWordAt (d + 1) 3 &&& (0x0000007C#32 ||| flagMask c.ecc 31),
    pteaddr := Config.freeWordAt (d + 1) 4 &&& 0xFFFFFFFC#32,
    tlbacc := Config.freeWordAt (d + 1) 5 &&& 0x01FFFFFF#32,
    tlbmisc := { s with tlbmisc := Config.freeWordAt (d + 1) 6 }.tlbmiscWritten (Config.freeWordAt (d + 1) 6),
    eccinj := Config.freeWordAt (d + 1) 7 &&& 0x003FFFFF#32,
    eccinjOld := 0#32,
    badaddr := Config.freeWordAt (d + 1) 8 &&& badaddrMask c,
    config := 0#32,
    mpubase := mpubaseWritten c (Config.freeWordAt (d + 1) 9),
    mpuacc := mpuaccWritten c (bit (Config.freeWordAt (d + 1) 9) 0) (Config.freeWordAt (d + 1) 10),
    tlb := if c.mmu then (List.range c.tlbEntries).map (freeTlbEntry c (d + 2)) else [],
    iregions := if c.mpu then (List.range c.mpuNumIRegions).map (freeRegion c false (d + 3)) else [],
    dregions := if c.mpu then (List.range c.mpuNumDRegions).map (freeRegion c true (d + 4)) else [],
    icache := resetIcache c (d + 5),
    dcache := (List.range (c.dcacheSize / 32)).map (freeLine c true (c.dcacheSize / 32) (d + 7)),
    prefetched := [],
    readAhead := [],
    eic := { s.eic with ril := 0#6, rnmi := false },
    debugMode := false,
    rfEcc := if c.ecc then freeMarks c (d + 9) ((List.range (32 * c.shadowSets + 31)).map (fun k => k + 1)) else [],
    wbError := false,
    customState := Config.freeNat d,
    draws := d + 12 }

/-- The `reset` input: `Reset()` and memory undefined as well, with the ECC state of tightly-coupled memory
(70_reset_and_hazards.md R520). -/
def State.resetAll (s : State) : State :=
  { s.resetCore with
    mem := Memory.ofCells (Config.freeMemory s.draws),
    tcmEcc := if s.cfg.ecc then freeMarks s.cfg (s.draws + 10) (tcmKeys s.cfg.itcms ++ tcmKeys s.cfg.dtcms) else [] }

/-! ## What is pending (60_exceptions.md R440) -/

/-- A hardware break is taken: a request of the debug module or the `debugreq` input, while the processor is not paused
(60_exceptions.md R461, R507; log 43). -/
def State.breakPending (s : State) : Bool :=
  s.cfg.hasDebug && !s.debugMode && (s.hwBreak || (s.cfg.hasDebugReq && s.debugReq))

/-- `cpu_resetrequest` is answered, while the processor is not paused (70_reset_and_hazards.md R522). -/
def State.cpuResetPending (s : State) : Bool := s.cfg.hasCpuResetRequest && s.cpuResetRequest && !s.debugMode

/-- A writeback error waits and can raise (60_exceptions.md R490, R493); while ECCEN or ECCEXE is 0 it waits on, and is
reported once both are 1 again (log 45). -/
def State.writebackPending (s : State) : Bool := s.wbError && s.eccRaises

/-- `InternalInterruptPending` (60_exceptions.md R442). -/
def State.internalPending (s : State) : Bool := !s.cfg.eic && stPie s.status && (s.irq &&& s.ienable != 0#32)

/-- `ExternalInterruptTaken` for the latched request (60_exceptions.md R445). -/
def State.externalPending (s : State) : Bool :=
  s.cfg.eic && s.eic.ril != 0#6 &&
  ((s.eic.rnmi && !stNmi s.status) ||
   (!s.eic.rnmi && stPie s.status && decide ((stIl s.status).toNat < s.eic.ril.toNat)
     && (s.cfg.shadowSets == 0 || s.eic.rrs != stCrs s.status || stRsie s.status)))

/-! ## Running the instruction at `pc` (60_exceptions.md R441) -/

/-- The execution of a decoded instruction, after its fetch: an error of its source registers that raises (60_exceptions.md R441
rank 6), then a late exception of the fetch (ranks 7 and 8), then the instruction. One that a check before any operand ends reads no
register but for an error that raises: it runs on the state before the reading, so that nothing is corrected or signalled
(46_other_control.md R391, 41_arith_logic.md R293). A word with constant fields other than those of the tables is refused unless the
configuration runs it (U27, log 36).

DESIGN CHOICE (log 55), unsafe: where the fetch has a late exception, R441 (a) calls the word not available and does not say which
registers are then read: the sources are those of the word that the fetch found all the same, as the memory holds it. -/
def runDecoded (i : Instr) (f : Fetched) (s : State) : Result :=
  (readSources (sources i s) s).bind fun _ s1 =>
    match f.late with
    | some x => .next (s1.takeLate x)
    | none =>
      if canonical i f.word || s1.cfg.nonCanonicalRuns then exec i (if trapsAtDecode i s then s else s1)
      else .refused .nonCanonicalWord

/-- A word that no instruction has, which reads no register (log 55): a late exception of the fetch, no defined effect for the
words of INTERNAL_ENCODINGS (U17), else an illegal instruction (30_encoding.md R211). -/
def runUndecoded (f : Fetched) (s : State) : Result :=
  match f.late with
  | some x => .next (s.takeLate x)
  | none => if f.word ∈ s.cfg.internalWords then .fault .internalWord else illegalInstruction s

/-- The execution of a fetched word. -/
def runWord (f : Fetched) (s : State) : Result :=
  match decode (bytesOfWord f.word) with
  | .ok (i, _) => runDecoded i f s
  | .error _ => runUndecoded f s

/-- The fetch and execution of the instruction at `pc`; with an unimplemented current register set, no defined behaviour
(U1). -/
def fetchAndRun (s : State) : Result :=
  if s.crs ≤ s.cfg.shadowSets then (fetch s).bind runWord else .fault .unimplementedRegisterSet

/-! ## The boundary (60_exceptions.md R440) -/

/-- The external interrupt of the latched request; a request for an unimplemented set is outside the model (U24). -/
def takeExternal (s : State) : Result :=
  if s.eic.rrs.toNat ≤ s.cfg.shadowSets then .next (s.interruptEntry s.eic) else .refused .unimplementedSetRequest

/-- Items 5 to 7 of R440, then the instruction. -/
def interruptOrRun (s : State) : Result :=
  if s.internalPending then raise .internalInterrupt s
  else if s.externalPending then takeExternal s
  else fetchAndRun s

/-- Item 4 of R440, "an undefined number of instructions later": whether a waiting writeback error is reported now is a
free choice (60_exceptions.md R493, log 45). -/
def writebackOr (s : State) (rest : State → Result) : Result :=
  if s.writebackPending then
    if Config.freeBool s.draws 0 then raise .eccWriteback { s.drawn with wbError := false } else rest s.drawn
  else rest s

/-- One step of a run, the signals of the step before cleared (60_exceptions.md R440, R496). With EH and U both one there
is no defined behaviour (U2). -/
def boundary (s : State) : Result :=
  if s.resetPin then .next s.resetAll
  else if s.cfg.hasEh && s.cfg.hasU && stEh s.status && stU s.status then .fault .exceptionModeInUserMode
  else if s.breakPending then .next { s.breakEntry with hwBreak := false }
  else if s.cpuResetPending then .next s.resetCore
  else writebackOr s interruptOrRun

/-- `boundary` on the state whose ECC signals are cleared: a signal is asserted from the step that raises it to the start of
the next (log 44). -/
def runStep (s : State) : Result := boundary { s with eccBus := 0#30 }

/-! ## Placing a program (92_eei_decisions.md D20, log 16) -/

/-- The physical address that a fetch at `pc` reads. -/
def State.fetchAddress (s : State) : Nat :=
  if s.cfg.mmu then
    match mmuFetch s.pc s with
    | .ok a _ => a
    | .stop _ => lowPhysical s.pc
  else s.pc.toNat

/-- `s` with the word `w` stored, free of errors, where the next fetch reads, and held otherwise by neither cache nor by the
pipeline. -/
def State.placeAtPc (s : State) (w : Word) : State :=
  let a := s.fetchAddress
  let s1 := s.icacheInvalidateLine s.pc
  { s1 with
    mem := s.mem.writeBytes a (bytesOfWord w),
    tcmEcc := sparseSet EccMark.none s.tcmEcc (a / 4) EccMark.none,
    dcache := s.dcache.map (fun l => if l.line = a / 32 then { l with valid := false, dirty := false } else l),
    prefetched := sparseSet [] s1.prefetched (a / 4) [],
    readAhead := sparseSet [] s1.readAhead (a / 4) [] }

end Sys2Proof.Machine
end

