-- ==== Sys2Proof/Machine/Step.lean ====
section
/-! DEFINITION. The step of the machine, and a program word placed where it fetches next. -/

namespace Sys2Proof.Machine

/-- One step: an event of 60_exceptions.md R440 or one instruction. -/
def step (s : State) : Host.Outcome State Fault Refusal := runStep s

/-- `s` with the instruction whose `nbits` table bits are `w` stored where `step` fetches next (log 16). -/
def State.withFetchWord (s : State) (nbits w : Nat) : State := s.placeAtPc (BitVec.ofNat 32 (w % 2 ^ nbits))

end Sys2Proof.Machine
end

