-- ==== Sys2Proof/Safety.lean ====
section
/-! DEFINITION. What a state of this machine always satisfies, in the terms the claims use: canonical memory, status words
and special registers whose unimplemented fields read as the spec says, an aligned `pc`, tables of the sizes the
configuration gives. -/

namespace Sys2Proof.Machine

open Sys2Proof

/-- Memory, the ECC marks and the old instruction words are in canonical form. -/
def State.Canonical (s : State) : Prop :=
  s.mem.wf = true ∧ sparseWf EccMark.none s.rfEcc = true ∧ sparseWf EccMark.none s.tcmEcc = true
    ∧ sparseWf [] s.prefetched = true ∧ sparseWf [] s.readAhead = true

/-- `status`, `estatus` and `bstatus` read as 10_state.md R30, R31 and R42 say: unimplemented and reserved fields 0, an
unimplemented RSIE 1. -/
def State.StatusImplemented (s : State) : Prop :=
  s.cfg.normStatus s.status = s.status ∧ s.cfg.normStatus s.estatus = s.estatus
    ∧ s.cfg.normStatus s.bstatus = s.bstatus

/-- The reserved bits of the other special registers read 0: `exception` (10_state.md R48), `pteaddr` (R49), `tlbacc`
(R50), `tlbmisc` with its RD (R51, D4), `eccinj` and its old value (R68), `config` (R61), `mpubase` (R62), `mpuacc` with
its RD and WR (R63); and the bits that only a core with ECC has: `exception.ECCFTL` (R48) and `tlbmisc.EE` (R51). -/
def State.SpecialImplemented (s : State) : Prop :=
  s.exception &&& 0x7FFFFF83#32 = 0#32 ∧ s.pteaddr &&& 0x00000003#32 = 0#32 ∧ s.tlbacc &&& 0xFE000000#32 = 0#32
    ∧ s.tlbmisc &&& 0xFE080000#32 = 0#32 ∧ s.eccinj &&& 0xFFC00000#32 = 0#32 ∧ s.eccinjOld &&& 0xFFC00000#32 = 0#32
    ∧ s.config &&& ~~~configMask s.cfg = 0#32 ∧ s.mpubase &&& 0x000000C0#32 = 0#32 ∧ s.mpuacc &&& 0x00000083#32 = 0#32
    ∧ (s.cfg.ecc = false → bit s.exception 31 = false ∧ bit s.tlbmisc 24 = false)

/-- The address of an instruction is a multiple of 4 (10_state.md R26). -/
def State.PcAligned (s : State) : Prop := field s.pc 0 2 = 0#2

/-- The vector parameters are those 00_scope.md R7 admits, and the EIC's handler address is an instruction address. -/
def State.VectorsAligned (s : State) : Prop := s.cfg.wf = true ∧ field s.eic.rha 0 2 = 0#2

/-- Every table has the size its parameter gives (20_memory.md R125, R132, 21_mmu_mpu.md R155, R170,
10_state.md R23); a core that fetches each word as it executes it holds no prefetched word, and one without an instruction cache
none read ahead (log 39). -/
def State.Shaped (s : State) : Prop :=
  s.shadow.length = s.cfg.shadowSets
    ∧ s.tlb.length = (if s.cfg.mmu then s.cfg.tlbEntries else 0)
    ∧ s.iregions.length = (if s.cfg.mpu then s.cfg.mpuNumIRegions else 0)
    ∧ s.dregions.length = (if s.cfg.mpu then s.cfg.mpuNumDRegions else 0)
    ∧ s.icache.length = s.cfg.icacheSize / 32 ∧ s.dcache.length = s.cfg.dcacheSize / 32
    ∧ (s.cfg.prefetches = false → s.prefetched = []) ∧ (s.cfg.icacheSize = 0 → s.readAhead = [])

/-- The current register set is implemented (10_state.md R34, U1). -/
def State.SetImplemented (s : State) : Prop := s.crs ≤ s.cfg.shadowSets

/-! ## The terms of the claims about instructions -/

/-- The shadow sets are those of the configuration and the current one is implemented: what a run that has met no undefined
behaviour always satisfies (10_state.md R23, R34). -/
def State.Ready (s : State) : Prop := s.shadow.length = s.cfg.shadowSets ∧ s.SetImplemented

/-- Every line of both caches holds 32 bytes (20_memory.md R125, R132). -/
def State.LinesWhole (s : State) : Prop :=
  (∀ l ∈ s.icache, l.data.length = 32) ∧ ∀ l ∈ s.dcache, l.data.length = 32

/-- `w` and its ECC mark `m` are what a register holds after `v` is written to it in the state `s`: `v` and no mark; where
`eccinj.RF` asks for an injection, `v` with one bit wrong or with two, any of them, and the mark that says so; a field of 3 is
not stated, and any of these (60_exceptions.md R495, 10_state.md R68, log 44). A core without ECC has no marks. -/
def HoldsWritten (s : State) (v w : Word) (m : EccMark) : Prop :=
  let bit (k : Nat) : Word := BitVec.twoPow 32 k
  let clean := w = v ∧ (s.cfg.ecc = true → sparseWf EccMark.none s.rfEcc = true → m = .none)
  let one := ∃ k, k < 32 ∧ w = v ^^^ bit k ∧ m = .single k
  let two := ∃ i j, i < 32 ∧ j < 32 ∧ i ≠ j ∧ w = v ^^^ bit i ^^^ bit j ∧ m = .double
  if s.cfg.ecc = false ∨ field s.eccinj 0 2 = 0#2 then clean
  else if field s.eccinj 0 2 = 1#2 then one
  else if field s.eccinj 0 2 = 2#2 then two
  else clean ∨ one ∨ two

/-- The ECC mark of register `r` of the set `set`. -/
def State.gprMark (s : State) (set : Nat) (r : RegIdx) : EccMark := sparseGet EccMark.none s.rfEcc (32 * set + r.toNat)

/-- `t` has the general registers of `s`, but for register `r` of the set `set`, to which `v` is written. -/
structure OneGpr (s t : State) (set : Nat) (r : RegIdx) (v : Word) : Prop where
  value : HoldsWritten s v (t.getGpr set r) (t.gprMark set r)
  others : ∀ (set' : Nat) (j : RegIdx), ¬ (set' = set ∧ j = r) → t.getGpr set' j = s.getGpr set' j

/-- `t` is `s` with `v` written to register `r` of the set `set` and `pc` holding `pc'`. Nothing else changes but, on a core
with ECC, the register's own ECC mark, the injection field RF of `eccinj`, which a write of the register file returns to 0
(10_state.md R68), and the model's draw counter. -/
structure Written (s t : State) (set : Nat) (r : RegIdx) (v pc' : Word) : Prop where
  pc : t.pc = pc'
  regs : OneGpr s t set r v
  rest : t = { s with
    pc := t.pc, gpr := t.gpr, shadow := t.shadow, rfEcc := t.rfEcc, eccinj := t.eccinj, draws := t.draws }
  noEcc : s.cfg.ecc = false → t.rfEcc = s.rfEcc ∧ t.eccinj = s.eccinj ∧ t.draws = s.draws
  injected : s.cfg.ecc = true → t.eccinj = setField s.eccinj 0 2 0#2
  marks : ∀ k, k ≠ 32 * set + r.toNat → sparseGet EccMark.none t.rfEcc k = sparseGet EccMark.none s.rfEcc k

/-- `t` is `s` after an instruction whose whole effect is `r[r] <- v` and `pc <- pc'`; a write to register 0 has no
effect, in a shadow set as in the normal one (10_state.md R21, R25; log 38). -/
def RegResult (s t : State) (r : RegIdx) (v pc' : Word) : Prop :=
  if r = 0#5 then t = { s with pc := pc' } else Written s t s.crs r v pc'

/-- `t` is `s` after a load whose whole effect is `r[r] <- v` and `pc <- pc'`; a write to register 0 has no effect in the normal
set, and in a shadow set where the configuration does not have loads write it (40_data_transfer.md R259(a), (d), 10_state.md R25;
log 38). -/
def LoadResult (s t : State) (r : RegIdx) (v pc' : Word) : Prop :=
  if r = 0#5 ∧ (s.crs = 0 ∨ s.cfg.loadsWriteShadowR0 = false) then t = { s with pc := pc' } else Written s t s.crs r v pc'

/-- The instruction completes, writes `v` to register `r` of the current set and falls through, `pc + 4` wrapping at the top
of the address space (D3, log 47); nothing else changes. -/
def Yields (i : Instr) (s : State) (r : RegIdx) (v : Word) : Prop :=
  ∃ t, exec i s = .next t ∧ RegResult s t r v (s.pc + 4#32)

/-- The instruction takes the exception `x`, whose code is `cause` (60_exceptions.md R432). -/
def Raises (i : Instr) (s : State) (x : Exc) (cause : BitVec 5) : Prop :=
  exec i s = .next (s.take x) ∧ (x.args s).cause = cause

/-- The data address check of user mode passes (21_mmu_mpu.md R154). -/
def State.UserMay (s : State) (va : Word) : Prop := (s.cfg.mmu && stU s.status && bit va 31) = false

/-- The data access at `va` is translated to the physical address `p`, which leaves the state `s1`, and made in memory itself: in a
data tightly-coupled memory of a core without ECC, or by the data master (20_memory.md R110 step 3). -/
def State.Reaches (s : State) (va : Word) (kind : AccessKind) (io : Bool) (p : Nat) (s1 : State) : Prop :=
  s.UserMay va ∧ ∃ c, translateData va kind s = .ok (p, c) s1
    ∧ ((tcmNumber s.cfg.dtcms p ≠ none ∧ s.cfg.ecc = false)
      ∨ (tcmNumber s.cfg.dtcms p = none ∧ usesDcache s.cfg io c p = false))

/-- The non-io data access at `va` is translated to the physical address `p`, which leaves the state `s1`, and made through a data
cache of a size that 00_scope.md R7 admits, on a core without ECC (20_memory.md R110 step 4). -/
def State.Caches (s : State) (va : Word) (kind : AccessKind) (p : Nat) (s1 : State) : Prop :=
  s.cfg.ecc = false ∧ s.cfg.wf = true ∧ s.dcache.length = s.cfg.dcacheSize / 32 ∧ s.LinesWhole ∧ s.UserMay va
    ∧ ∃ c, translateData va kind s = .ok (p, c) s1 ∧ tcmNumber s.cfg.dtcms p = none ∧ usesDcache s.cfg false c p = true

/-- The index of the data cache line of an address (20_memory.md R125). -/
def State.dindex (s : State) (va : Word) : Nat := lineIndex s.cfg.dcacheSize va.toNat

/-- The data cache hits: the indexed line is valid and holds `p` (20_memory.md R125). -/
def State.Hits (s : State) (va : Word) (p : Nat) : Prop :=
  (s.dline (s.dindex va)).valid = true ∧ (s.dline (s.dindex va)).line = p / 32

/-- The byte that a cached access at `va`, `p` finds `k` bytes on: the line's on a hit; on a miss memory's, or a free value
where the fill reaches no memory (20_memory.md R125, logs 20 and 21). -/
def State.cachedByte (s : State) (va : Word) (p k : Nat) : Byte :=
  if (s.dline (s.dindex va)).valid = true ∧ (s.dline (s.dindex va)).line = p / 32 then
    (s.dline (s.dindex va)).data.getD (p % 32 + k) 0#8
  else if s.cfg.dlineRam (p + k) then s.mem.read (p + k)
  else Config.freeByte s.draws (p % 32 + k)

/-- What memory reads at `a` after the line `l` is written back if it is dirty: its bytes go to the address its tag names,
where the platform has memory that is not tightly coupled, and are lost elsewhere (20_memory.md R125, R126, R135, logs 20, 21
and 39). -/
def State.afterWriteBack (s : State) (l : CacheLine) (a : Nat) : Byte :=
  if l.dirty = true ∧ l.line * 32 ≤ a ∧ a < l.line * 32 + 32 ∧ s.cfg.dlineRam a = true then
    l.data.getD (a - l.line * 32) 0#8
  else s.mem.read a

/-- The byte `k` of a bus read from `p`: memory's byte where the platform has memory, a free value elsewhere
(20_memory.md R105, logs 20 and 21). -/
def State.busByte (s : State) (p k : Nat) : Byte :=
  if s.cfg.dataRam (p + k) then s.mem.read (p + k) else Config.freeByte s.draws k

/-- The state after a bus read of `n` bytes from `p`: a draw is used where a byte was free (log 13). -/
def State.afterRead (s : State) (p n : Nat) : State :=
  if (List.range n).all (fun k => s.cfg.dataRam (p + k)) then s else s.drawn

/-- A change of memory from `s` to `t` keeps the old words that may still run: with caches, of a word that changes, the old one at
every index where the instruction cache may have read it ahead, or in the pipeline where that cache cannot hold it, beside
those that were there; without caches none (20_memory.md R101, R133, U8; log 39). -/
def KeepsPrefetched (s t : State) : Prop :=
  (s.cfg.prefetches = false → t.prefetched = s.prefetched ∧ t.readAhead = s.readAhead)
  ∧ (s.cfg.prefetches = true → ∀ (k i : Nat) (w : Word),
      let changed := t.instrWord k ≠ s.instrWord k ∧ w = s.instrWord k
      (w ∈ t.prefetchedAt i k ↔ w ∈ s.prefetchedAt i k ∨ (changed ∧ s.cfg.ihomes k = [] ∧ i = 0))
      ∧ (w ∈ t.aheadAt i k ↔ w ∈ s.aheadAt i k ∨ (changed ∧ i ∈ s.cfg.ihomes k)))

/-- The invalidation of the instruction cache line at index `i`, from `s` to `t`: the old words that the cache may have held there,
read ahead or in its line, are in the pipeline alone, for a fetch by that index; those of other indices stay (20_memory.md R132,
R133, R145; log 39). -/
def FlushesAhead (s t : State) (i : Nat) : Prop :=
  ∀ k : Nat,
    (∀ w : Word, w ∈ t.prefetchedAt i k ↔ w ∈ s.prefetchedAt i k ∨ w ∈ s.aheadAt i k
      ∨ ((s.iline i).valid = true ∧ s.irefetch (s.iline i) = false ∧ k / 8 = (s.iline i).line
        ∧ s.cfg.tightlyCoupled (4 * k) = false ∧ w = (s.iline i).word k ∧ w ≠ s.instrWord k))
    ∧ t.aheadAt i k = []
    ∧ ∀ j, j ≠ i → t.aheadAt j k = s.aheadAt j k ∧ ∀ w : Word, w ∈ t.prefetchedAt j k ↔ w ∈ s.prefetchedAt j k

/-- A word other than `w`, which memory and the caches give, that a fetch of the physical address `p` at `va` may deliver: an old one
that the pipeline may hold, fetched by the same index; outside the tightly-coupled memories, one that the instruction cache may have
read ahead, memory's where there is such a word, and one that was stored in the data cache and not written back (20_memory.md R133, U8;
log 39). -/
def State.MayRun (s : State) (va : Word) (p : Nat) (w : Word) : Prop :=
  let ahead := s.aheadAt (va.toNat / 32 % (s.cfg.icacheSize / 32)) (p / 4)
  let memory := s.instrWord (p / 4)
  w ∈ s.prefetchedAt (if s.cfg.ihomes (p / 4) = [] then 0 else va.toNat / 32 % (s.cfg.icacheSize / 32)) (p / 4)
  ∨ (s.cfg.tightlyCoupled p = false ∧
      (w ∈ ahead ∨ (ahead ≠ [] ∧ w = memory)
      ∨ (w ≠ memory ∧ ∃ l ∈ s.dcache, l.valid = true ∧ l.stored = true ∧ l.line = p / 32 ∧ w = l.word (p / 4))))

/-- The ECC marks of tightly-coupled memory after a store of `n` bytes at `p` in memory: no other word's mark changes, and a whole
word keeps no error; a core without ECC has none (70_reset_and_hazards.md R534). -/
structure Remarked (s t : State) (p n : Nat) : Prop where
  noEcc : s.cfg.ecc = false → t.tcmEcc = s.tcmEcc
  others : ∀ k, k ≠ p / 4 → sparseGet EccMark.none t.tcmEcc k = sparseGet EccMark.none s.tcmEcc k
  whole : s.cfg.ecc = true → s.cfg.dataRam p = true → n = 4 → sparseWf EccMark.none s.tcmEcc = true →
    sparseGet EccMark.none t.tcmEcc (p / 4) = .none

/-- `t` is `s` after a store of the bytes `bs` to the bus at `p`: each byte in memory if the platform has memory there, and
lost elsewhere (logs 20 and 21); every other byte of memory, and all else but `pc`, the ECC mark of the word and the old
instruction words that may still run, unchanged. -/
structure Stored (s t : State) (p : Nat) (bs : List Byte) : Prop where
  bytes : ∀ k, k < bs.length → t.mem.read (p + k) = if s.cfg.dataRam (p + k) then bs.getD k 0#8 else s.mem.read (p + k)
  frame : ∀ a, a < p ∨ p + bs.length ≤ a → t.mem.read a = s.mem.read a
  rest : t = { s with pc := s.pc + 4#32, mem := t.mem, tcmEcc := t.tcmEcc, prefetched := t.prefetched, readAhead := t.readAhead }
  marks : Remarked s t p bs.length
  kept : KeepsPrefetched s t

/-- The tag of the data cache line at index `i` after it is written to hold the line address `line`, from `s` to `t`: no error, or, in
any of the address bits that the tag holds, the one or the two wrong bits that `eccinj.DCTAG` asks for, whose field is 0 then
(10_state.md R68, 60_exceptions.md R495; log 44). -/
def TagWritten (s t : State) (i line : Nat) : Prop :=
  let w := t.dline i
  let wrong (k : Nat) : Nat := 2 ^ k * s.cfg.dtagUnit
  let width := 27 - Nat.log2 s.cfg.dtagUnit
  field t.eccinj 6 2 = 0#2
  ∧ (field s.eccinj 6 2 = 0#2 → w.tagEcc = .none ∧ w.line = line)
  ∧ (field s.eccinj 6 2 = 1#2 → ∃ k, k < width ∧ w.tagEcc = .single k ∧ w.line = line ^^^ wrong k)
  ∧ (field s.eccinj 6 2 = 2#2 → ∃ j k, j < width ∧ k < width ∧ j ≠ k ∧ w.tagEcc = .double
    ∧ w.line = line ^^^ wrong j ^^^ wrong k)

/-- The entries of a line that match a VPN (21_mmu_mpu.md R156): its tag is the VPN above the line bits (log 49), and it is
global or of the current process. -/
def State.tlbFinds (s : State) (vpn : BitVec 20) : List TlbEntry :=
  (s.tlbWaysOf vpn).filter (fun e => decide (e.tag = vpn.toNat / (s.cfg.tlbEntries / s.cfg.tlbWays))
    && (e.g || e.pid == field s.tlbmisc 4 14))

/-- Nothing of items 1 to 4 of 60_exceptions.md R440 is taken before the instruction at `pc`, and U2 does not hold. -/
def State.Unbroken (s : State) : Prop :=
  s.resetPin = false ∧ (s.cfg.hasEh && s.cfg.hasU && stEh s.status && stU s.status) = false
    ∧ s.breakPending = false ∧ s.cpuResetPending = false ∧ s.writebackPending = false

/-- Nothing of 60_exceptions.md R440 is taken before the instruction at `pc`. -/
def State.Quiet (s : State) : Prop := s.Unbroken ∧ s.internalPending = false ∧ s.externalPending = false

/-! ## Words, as 30_encoding.md R201 to R204 draw them, most significant field first -/

/-- An R-type word: A, B, C, OPX6, IMM5, OP = 0x3A (30_encoding.md R202). -/
def wordR (a b c : RegIdx) (opx : BitVec 6) (imm5 : BitVec 5) : Word := a ++ b ++ c ++ opx ++ imm5 ++ 0x3A#6

/-- An I-type word: A, B, IMM16, OP (30_encoding.md R201). -/
def wordI (a b : RegIdx) (imm16 : BitVec 16) (op : BitVec 6) : Word := a ++ b ++ imm16 ++ op

/-- A J-type word: IMM26, OP (30_encoding.md R203). -/
def wordJ (imm26 : BitVec 26) (op : BitVec 6) : Word := imm26 ++ op

/-- A `custom` word: A, B, C, readra, readrb, writerc, N, OP = 0x32 (30_encoding.md R204). -/
def wordCustom (n : BitVec 8) (readra readrb writerc : Bool) (c a b : RegIdx) : Word :=
  a ++ b ++ c ++ BitVec.ofBool readra ++ BitVec.ofBool readrb ++ BitVec.ofBool writerc ++ n ++ 0x32#6

/-- `w` is the word of the instruction `i`: the decoder reads `i` from it and the encoder writes it. -/
def Coded (w : Word) (i : Instr) : Prop := decodeWord w = .ok i ∧ encode i = w

/-! ## Exceptions, as the tables of 60_exceptions.md give them -/

/-- The cause code of an exception (60_exceptions.md R432). -/
def Exc.code : Exc → BitVec 5
  | .eccWriteback => 22#5
  | .internalInterrupt => 2#5
  | .eccTlbInstr => 18#5
  | .supervisorOnlyInstrAddr => 9#5
  | .tlbMissInstr => 12#5
  | .tlbPermExecute => 13#5
  | .eccRegisterFile => 20#5
  | .mpuInstr => 16#5
  | .eccFetch => 19#5
  | .supervisorOnlyInstr => 10#5
  | .trap => 3#5
  | .illegal => 5#5
  | .unimplemented => 4#5
  | .supervisorOnlyDataAddr _ => 11#5
  | .misalignedData _ => 6#5
  | .misalignedDest _ => 7#5
  | .eccTlbData _ => 18#5
  | .divisionError => 8#5
  | .tlbMissData _ => 12#5
  | .tlbPermRead _ => 14#5
  | .tlbPermWrite _ => 15#5
  | .mpuData _ => 17#5
  | .eccData _ => 21#5

/-- `is_tlb_miss`: cause 12 (60_exceptions.md R454). -/
def Exc.isTlbMiss (x : Exc) : Bool := x.code == 12#5

/-- `is_perm`: causes 13, 14, 15 (60_exceptions.md R454). -/
def Exc.isPerm (x : Exc) : Bool := x.code == 13#5 || x.code == 14#5 || x.code == 15#5

/-- `is_bad`: causes 9, 11, 6, 7 (60_exceptions.md R454). -/
def Exc.isBad (x : Exc) : Bool := x.code == 9#5 || x.code == 11#5 || x.code == 6#5 || x.code == 7#5

/-- The data address of a data access exception that Table 39 names `badaddr` for (60_exceptions.md R457). -/
def Exc.dataAddr : Exc → Option Word
  | .supervisorOnlyDataAddr a | .misalignedData a | .eccTlbData a | .tlbMissData a | .tlbPermRead a | .tlbPermWrite a
  | .mpuData a | .eccData a => some a
  | _ => none

/-- The faulting virtual address of a TLB miss or a TLB permission violation (60_exceptions.md R449). -/
def Exc.faultAddr (x : Exc) (pc : Word) : Word := x.dataAddr.getD pc

/-! ## The status words, as 10_state.md R30 to R43 give their fields -/

/-- As much of a register-set number as the configuration implements: "the number of significant bits needed to represent
n-1" for n register sets, the normal set among them (10_state.md R33, R34). -/
def implementedSet (c : Config) (f : BitVec 6) : BitVec 6 :=
  if c.shadowSets = 0 then 0#6 else BitVec.ofNat 6 (f.toNat % 2 ^ (Nat.log2 c.shadowSets + 1))

/-- The status word `w` holds the fields RSIE, PRS, IL, IH, EH, U and PIE of `v`, each where it is implemented and what an
unimplemented field reads elsewhere, and 0 in its reserved bits (10_state.md R30). -/
structure StatusFields (c : Config) (v w : Word) : Prop where
  rsie : stRsie w = if c.hasRsie then stRsie v else true
  prs : stPrs w = implementedSet c (stPrs v)
  il : stIl w = if c.eic then stIl v else 0#6
  ih : stIh w = (c.eic && stIh v)
  eh : stEh w = (c.hasEh && stEh v)
  u : stU w = (c.hasU && stU v)
  pie : stPie w = stPie v
  reserved : field w 24 8 = 0#8

/-- The address at which the processor executes a vector: the parameter itself; with an MMU its alias in the kernel
partition, `0xC0000000 | v[28:0]`, which R450 derives (60_exceptions.md R450, log 47). -/
def vectorOf (c : Config) (v : Word) : Word := if c.mmu then 0b110#3 ++ v.extractLsb' 0 29 else v

/-- The ECC state that a write of the register file may change is unchanged. -/
def SameRfEcc (s t : State) : Prop := t.rfEcc = s.rfEcc ∧ t.eccinj = s.eccinj ∧ t.draws = s.draws

/-- The request of the EIC is taken (60_exceptions.md R445). -/
def State.ExternalTaken (s : State) : Prop :=
  s.eic.ril ≠ 0#6 ∧
    ((s.eic.rnmi = true ∧ stNmi s.status = false)
      ∨ (s.eic.rnmi = false ∧ stPie s.status = true ∧ (stIl s.status).toNat < s.eic.ril.toNat
        ∧ (s.cfg.shadowSets = 0 ∨ s.eic.rrs ≠ stCrs s.status ∨ stRsie s.status = true)))

end Sys2Proof.Machine
end

