-- ==== Sys2Proof/Certificates/Slice0/Obligations.lean ====
section
/-! DEFINITION. The statements for the provers, in the order of OBLIGATIONS.json. Wherever one says `pc + 4`, that the sum
wraps at the top of the address space is D3, and wherever one says a vector of a core with an MMU, its address is the formula
of 60_exceptions.md R450 (log 47). Wherever one says that a register is written, that a write to register 0 of a shadow set
has no effect is 10_state.md R25; of a load 40_data_transfer.md R259(d) says the contrary, and which of the two holds is the
model's parameter `loadsWriteShadowR0` (log 38). -/

open Sys2Proof Sys2Proof.Machine

/-! ## Encoding (30_encoding.md) -/

/-- Decoding the encoded word of a well-formed instruction, with any bytes after it, gives the instruction back: no bit of
an encoding is dropped. -/
def Obligations.DecodeEncodeRoundTrip : Prop :=
  ∀ (i : Instr) (rest : List Byte), WellFormed i = true → decode (bytesOfWord (encode i) ++ rest) = .ok (i, rest)

/-- Which words decode is settled by OP and, for OP = 0x3A, by OPX6: refused are exactly the words with one of the 18 undefined
OP values of 30_encoding.md R207 or the 22 undefined OPX6 values of R208, whatever their other bits (R206, R212, D16); and the
canonical word of what a word decodes to has its OP and OPX6 and decodes to the same instruction. -/
def Obligations.WordsDecodeByOpAndOpx : Prop :=
  ∀ w : Word,
    ((∃ e, decodeWord w = .error e) ↔
      opOf w ∈ [0x02#6, 0x09#6, 0x0A#6, 0x11#6, 0x12#6, 0x19#6, 0x1A#6, 0x1D#6, 0x1F#6, 0x21#6, 0x22#6, 0x29#6, 0x2A#6,
        0x31#6, 0x39#6, 0x3D#6, 0x3E#6, 0x3F#6] ∨
      (opOf w = 0x3A#6 ∧ opxOf w ∈ [0x00#6, 0x0A#6, 0x0F#6, 0x11#6, 0x15#6, 0x19#6, 0x21#6, 0x22#6, 0x23#6, 0x2A#6, 0x2B#6,
        0x2C#6, 0x2F#6, 0x32#6, 0x33#6, 0x35#6, 0x37#6, 0x38#6, 0x3C#6, 0x3D#6, 0x3E#6, 0x3F#6]))
    ∧ ∀ i : Instr, decodeWord w = .ok i →
      decodeWord (encode i) = .ok i ∧ opOf (encode i) = opOf w ∧ (opOf w = 0x3A#6 → opxOf (encode i) = opxOf w)

/-- Words that the rules print, one or more of each family of instructions, decode to the instructions they stand for. -/
def Obligations.PrintedWordsDecode : Prop :=
  decodeWord 0x3A0D883A#32 = .ok (.add 6#5 7#5 8#5) ∧ decodeWord 0x39BFE704#32 = .ok (.addi 6#5 7#5 0xFF9C#16)
    ∧ decodeWord 0x39801908#32 = .ok (.cmpgei 6#5 7#5 100#16) ∧ decodeWord 0x380C10FA#32 = .ok (.roli 6#5 7#5 3#5)
    ∧ decodeWord 0x31C00226#32 = .ok (.beq 6#5 7#5 8#16) ∧ decodeWord 0x003B697A#32 = .ok (.trap 5#5)
    ∧ decodeWord 0x00010000#32 = .ok (.call 0x400#26) ∧ decodeWord 0x200170FA#32 = .ok (.wrctl 3#5 4#5)
    ∧ decodeWord 0x303FE73B#32 = .ok (.flushd 6#5 0xFF9C#16) ∧ decodeWord 0x29801917#32 = .ok (.ldw 6#5 5#5 100#16)
    ∧ decodeWord 0x29801915#32 = .ok (.stw 6#5 5#5 100#16)
    ∧ decodeWord 0x3A0DC032#32 = .ok (.custom 0#8 true true true 6#5 7#5 8#5)

/-- A reserved word raises the illegal-instruction exception, cause 5, where the check is on, and stops where it is off; a word
of INTERNAL_ENCODINGS stops in either case (30_encoding.md R211, U16, U17, log 29). -/
def Obligations.ReservedWordRaises : Prop :=
  ∀ (w : Word) (s : State), (∃ e, decodeWord w = .error e) →
    let runs := runWord { word := w, late := none } s
    (w ∉ s.cfg.internalWords → s.cfg.illegalChecked = true →
      runs = .next (s.take .illegal) ∧ (Exc.illegal.args s).cause = 5#5)
    ∧ (w ∉ s.cfg.internalWords → s.cfg.illegalChecked = false → runs = .fault .reservedWord)
    ∧ (w ∈ s.cfg.internalWords → runs = .fault .internalWord)

/-! ## Arithmetic and logic (41_arith_logic.md) -/

/-- `add`, `addi` and `sub`: the words, and sums and differences modulo 2^32 (R270, R271, R272; a
destination of register 0 by R25, log 38). -/
def Obligations.AddSubtractResults : Prop :=
  ∀ (a b c : RegIdx) (imm16 : BitVec 16),
    Coded (wordR a b c 0x31#6 0#5) (.add c a b) ∧ Coded (wordI a b imm16 0x04#6) (.addi b a imm16)
    ∧ Coded (wordR a b c 0x39#6 0#5) (.sub c a b) ∧
    ∀ s : State, s.Ready →
      Yields (.add c a b) s c (BitVec.ofNat 32 ((s.reg a).toNat + (s.reg b).toNat))
      ∧ Yields (.addi b a imm16) s b (BitVec.ofInt 32 ((s.reg a).toInt + imm16.toInt))
      ∧ Yields (.sub c a b) s c (BitVec.ofInt 32 ((s.reg a).toInt - (s.reg b).toInt))

/-- The ten logical instructions: the words, and each bit of the result (R274 to R279, R287 to R290; a destination of
register 0 by R25, log 38). -/
def Obligations.LogicalResults : Prop :=
  ∀ (a b c : RegIdx) (imm16 : BitVec 16),
    Coded (wordR a b c 0x0E#6 0#5) (.and c a b) ∧ Coded (wordI a b imm16 0x0C#6) (.andi b a imm16)
    ∧ Coded (wordI a b imm16 0x2C#6) (.andhi b a imm16)
    ∧ Coded (wordR a b c 0x16#6 0#5) (.or c a b) ∧ Coded (wordI a b imm16 0x14#6) (.ori b a imm16)
    ∧ Coded (wordI a b imm16 0x34#6) (.orhi b a imm16)
    ∧ Coded (wordR a b c 0x1E#6 0#5) (.xor c a b) ∧ Coded (wordI a b imm16 0x1C#6) (.xori b a imm16)
    ∧ Coded (wordI a b imm16 0x3C#6) (.xorhi b a imm16) ∧ Coded (wordR a b c 0x06#6 0#5) (.nor c a b) ∧
    ∀ s : State, s.Ready →
      Yields (.and c a b) s c (s.reg a &&& s.reg b)
      ∧ Yields (.andi b a imm16) s b (s.reg a &&& (0#16 ++ imm16))
      ∧ Yields (.andhi b a imm16) s b (s.reg a &&& (imm16 ++ 0#16))
      ∧ Yields (.or c a b) s c (s.reg a ||| s.reg b)
      ∧ Yields (.ori b a imm16) s b (s.reg a ||| (0#16 ++ imm16))
      ∧ Yields (.orhi b a imm16) s b (s.reg a ||| (imm16 ++ 0#16))
      ∧ Yields (.xor c a b) s c (s.reg a ^^^ s.reg b)
      ∧ Yields (.xori b a imm16) s b (s.reg a ^^^ (0#16 ++ imm16))
      ∧ Yields (.xorhi b a imm16) s b (s.reg a ^^^ (imm16 ++ 0#16))
      ∧ Yields (.nor c a b) s c (~~~(s.reg a ||| s.reg b))

/-- The five multiplications: the words; the low or high half of the exact product where the core has the hardware, the
unimplemented-instruction exception, cause 4, where it has not (R280 to R284; a destination of
register 0 by R25, log 38). -/
def Obligations.MultiplyResults : Prop :=
  ∀ (a b c : RegIdx) (imm16 : BitVec 16),
    Coded (wordR a b c 0x27#6 0#5) (.mul c a b) ∧ Coded (wordI a b imm16 0x24#6) (.muli b a imm16)
    ∧ Coded (wordR a b c 0x1F#6 0#5) (.mulxss c a b) ∧ Coded (wordR a b c 0x17#6 0#5) (.mulxsu c a b)
    ∧ Coded (wordR a b c 0x07#6 0#5) (.mulxuu c a b) ∧
    ∀ s : State, s.Ready →
      (if s.cfg.isF = true ∧ (s.cfg.hwMul = .mul ∨ s.cfg.hwMul = .mulx) then
        Yields (.mul c a b) s c (BitVec.ofNat 32 ((s.reg a).toNat * (s.reg b).toNat))
        ∧ Yields (.muli b a imm16) s b (BitVec.ofInt 32 ((s.reg a).toInt * imm16.toInt))
      else Raises (.mul c a b) s .unimplemented 4#5 ∧ Raises (.muli b a imm16) s .unimplemented 4#5)
      ∧ (if s.cfg.isF = true ∧ s.cfg.hwMul = .mulx then
        Yields (.mulxss c a b) s c ((BitVec.ofInt 64 ((s.reg a).toInt * (s.reg b).toInt)).extractLsb' 32 32)
        ∧ Yields (.mulxsu c a b) s c
            ((BitVec.ofInt 64 ((s.reg a).toInt * ((s.reg b).toNat : Int))).extractLsb' 32 32)
        ∧ Yields (.mulxuu c a b) s c ((BitVec.ofNat 64 ((s.reg a).toNat * (s.reg b).toNat)).extractLsb' 32 32)
      else
        Raises (.mulxss c a b) s .unimplemented 4#5 ∧ Raises (.mulxsu c a b) s .unimplemented 4#5
        ∧ Raises (.mulxuu c a b) s .unimplemented 4#5)

/-- `div` and `divu`: the words; the quotient truncated toward zero; the division-error exception, cause 8, or, where that
check is off, a value of rC that nothing constrains (U18, log 30); the unimplemented-instruction exception where the core has
no divide hardware (R285, R286; a destination of register 0 by R25, log 38). -/
def Obligations.DivideResults : Prop :=
  ∀ (a b c : RegIdx),
    Coded (wordR a b c 0x25#6 0#5) (.div c a b) ∧ Coded (wordR a b c 0x24#6 0#5) (.divu c a b) ∧
    ∀ s : State, s.Ready →
      if s.cfg.isF = true ∧ s.cfg.hwDiv = true then
        (if s.reg b = 0#32 ∨ (s.reg a).toInt = -2 ^ 31 ∧ (s.reg b).toInt = -1 then
          (if s.cfg.checkDivErr then Raises (.div c a b) s .divisionError 8#5
          else ∃ t, exec (.div c a b) s = .next t
            ∧ RegResult s.drawn t c (Config.freeWord s.draws) (s.pc + 4#32))
        else Yields (.div c a b) s c (BitVec.ofInt 32 ((s.reg a).toInt.tdiv (s.reg b).toInt)))
        ∧ (if s.reg b = 0#32 then
          (if s.cfg.checkDivErr then Raises (.divu c a b) s .divisionError 8#5
          else ∃ t, exec (.divu c a b) s = .next t
            ∧ RegResult s.drawn t c (Config.freeWord s.draws) (s.pc + 4#32))
        else Yields (.divu c a b) s c (BitVec.ofNat 32 ((s.reg a).toNat / (s.reg b).toNat)))
      else Raises (.div c a b) s .unimplemented 4#5 ∧ Raises (.divu c a b) s .unimplemented 4#5

/-! ## Comparison (43_compare.md) and shifts (44_shift_rotate.md) -/

/-- The twelve comparisons: the words; 1 where the relation holds and 0 where it does not, signed and unsigned, the
immediates extended as each rule says (a destination of register 0 by R25, log 38). -/
def Obligations.CompareResults : Prop :=
  ∀ (a b c : RegIdx) (imm16 : BitVec 16),
    Coded (wordR a b c 0x20#6 0#5) (.cmpeq c a b) ∧ Coded (wordR a b c 0x18#6 0#5) (.cmpne c a b)
    ∧ Coded (wordR a b c 0x08#6 0#5) (.cmpge c a b) ∧ Coded (wordR a b c 0x28#6 0#5) (.cmpgeu c a b)
    ∧ Coded (wordR a b c 0x10#6 0#5) (.cmplt c a b) ∧ Coded (wordR a b c 0x30#6 0#5) (.cmpltu c a b)
    ∧ Coded (wordI a b imm16 0x20#6) (.cmpeqi b a imm16) ∧ Coded (wordI a b imm16 0x18#6) (.cmpnei b a imm16)
    ∧ Coded (wordI a b imm16 0x08#6) (.cmpgei b a imm16) ∧ Coded (wordI a b imm16 0x28#6) (.cmpgeui b a imm16)
    ∧ Coded (wordI a b imm16 0x10#6) (.cmplti b a imm16) ∧ Coded (wordI a b imm16 0x30#6) (.cmpltui b a imm16) ∧
    ∀ s : State, s.Ready →
      Yields (.cmpeq c a b) s c (if s.reg a = s.reg b then 1#32 else 0#32)
      ∧ Yields (.cmpne c a b) s c (if s.reg a ≠ s.reg b then 1#32 else 0#32)
      ∧ Yields (.cmpge c a b) s c (if (s.reg a).toInt ≥ (s.reg b).toInt then 1#32 else 0#32)
      ∧ Yields (.cmpgeu c a b) s c (if (s.reg a).toNat ≥ (s.reg b).toNat then 1#32 else 0#32)
      ∧ Yields (.cmplt c a b) s c (if (s.reg a).toInt < (s.reg b).toInt then 1#32 else 0#32)
      ∧ Yields (.cmpltu c a b) s c (if (s.reg a).toNat < (s.reg b).toNat then 1#32 else 0#32)
      ∧ Yields (.cmpeqi b a imm16) s b (if (s.reg a).toInt = imm16.toInt then 1#32 else 0#32)
      ∧ Yields (.cmpnei b a imm16) s b (if (s.reg a).toInt ≠ imm16.toInt then 1#32 else 0#32)
      ∧ Yields (.cmpgei b a imm16) s b (if (s.reg a).toInt ≥ imm16.toInt then 1#32 else 0#32)
      ∧ Yields (.cmpgeui b a imm16) s b (if (s.reg a).toNat ≥ imm16.toNat then 1#32 else 0#32)
      ∧ Yields (.cmplti b a imm16) s b (if (s.reg a).toInt < imm16.toInt then 1#32 else 0#32)
      ∧ Yields (.cmpltui b a imm16) s b (if (s.reg a).toNat < imm16.toNat then 1#32 else 0#32)

/-- The nine shifts and rotates: the words; the amount from bits 4 to 0 of rB or from IMM5, the result by the formulas of
R350, a rotation moving bit k of rA to bit k + n modulo 32 (to the right: bit k + n to bit k; a destination of register 0 by
R25, log 38). -/
def Obligations.ShiftRotateResults : Prop :=
  ∀ (a b c : RegIdx) (imm5 : BitVec 5),
    Coded (wordR a b c 0x03#6 0#5) (.rol c a b) ∧ Coded (wordR a 0#5 c 0x02#6 imm5) (.roli c a imm5)
    ∧ Coded (wordR a b c 0x0B#6 0#5) (.ror c a b) ∧ Coded (wordR a b c 0x13#6 0#5) (.sll c a b)
    ∧ Coded (wordR a 0#5 c 0x12#6 imm5) (.slli c a imm5) ∧ Coded (wordR a b c 0x1B#6 0#5) (.srl c a b)
    ∧ Coded (wordR a 0#5 c 0x1A#6 imm5) (.srli c a imm5) ∧ Coded (wordR a b c 0x3B#6 0#5) (.sra c a b)
    ∧ Coded (wordR a 0#5 c 0x3A#6 imm5) (.srai c a imm5) ∧
    ∀ s : State, s.Ready → ∀ x n, x = s.reg a → n = (s.reg b).toNat % 32 →
      (∃ v, Yields (.rol c a b) s c v ∧ ∀ k, k < 32 → v.getLsbD ((k + n) % 32) = x.getLsbD k)
      ∧ (∃ v, Yields (.roli c a imm5) s c v ∧ ∀ k, k < 32 → v.getLsbD ((k + imm5.toNat) % 32) = x.getLsbD k)
      ∧ (∃ v, Yields (.ror c a b) s c v ∧ ∀ k, k < 32 → v.getLsbD k = x.getLsbD ((k + n) % 32))
      ∧ Yields (.sll c a b) s c (BitVec.ofNat 32 (x.toNat * 2 ^ n))
      ∧ Yields (.slli c a imm5) s c (BitVec.ofNat 32 (x.toNat * 2 ^ imm5.toNat))
      ∧ Yields (.srl c a b) s c (BitVec.ofNat 32 (x.toNat / 2 ^ n))
      ∧ Yields (.srli c a imm5) s c (BitVec.ofNat 32 (x.toNat / 2 ^ imm5.toNat))
      ∧ Yields (.sra c a b) s c (BitVec.ofInt 32 (x.toInt / 2 ^ n))
      ∧ Yields (.srai c a imm5) s c (BitVec.ofInt 32 (x.toInt / 2 ^ imm5.toNat))

/-! ## Data transfer (40_data_transfer.md, 20_memory.md, 21_mmu_mpu.md) -/

/-- The ten loads from memory itself: the words; at an aligned address the bytes at the translated address, lowest first,
sign-extended or zero-extended, a byte of a device being a free value (logs 9 and 21); where the platform maps nothing at a
byte of the access, rB takes any value (U4, log 20). What the translation leaves, `s1`, is in `TlbTranslation`, `MpuDataCheck` and
`EccTlb`. A destination of register 0 of a shadow set takes the value where `loadsWriteShadowR0` says so (40_data_transfer.md
R259(d)) and nothing elsewhere (10_state.md R25), a parameter that is the model's choice (log 38). -/
def Obligations.LoadResults : Prop :=
  ∀ (a b : RegIdx) (imm16 : BitVec 16),
    Coded (wordI a b imm16 0x07#6) (.ldb b a imm16) ∧ Coded (wordI a b imm16 0x27#6) (.ldbio b a imm16)
    ∧ Coded (wordI a b imm16 0x03#6) (.ldbu b a imm16) ∧ Coded (wordI a b imm16 0x23#6) (.ldbuio b a imm16)
    ∧ Coded (wordI a b imm16 0x0F#6) (.ldh b a imm16) ∧ Coded (wordI a b imm16 0x2F#6) (.ldhio b a imm16)
    ∧ Coded (wordI a b imm16 0x0B#6) (.ldhu b a imm16) ∧ Coded (wordI a b imm16 0x2B#6) (.ldhuio b a imm16)
    ∧ Coded (wordI a b imm16 0x17#6) (.ldw b a imm16) ∧ Coded (wordI a b imm16 0x37#6) (.ldwio b a imm16) ∧
    ∀ (s s1 : State) (p : Nat), s.Ready →
    let va := s.effAddr a imm16
    let loads (i : Instr) (n : Nat) (v : Word) :=
      ∃ t, exec i s = .next t ∧
        if ∀ k, k < n → s.cfg.dataMapped (p + k) = true then LoadResult (s1.afterRead p n) t b v (s.pc + 4#32)
        else LoadResult (s1.afterRead p n).drawn t b (Config.freeWord (s1.afterRead p n).draws) (s.pc + 4#32)
    let byte := s1.busByte p 0
    let half := s1.busByte p 1 ++ s1.busByte p 0
    let word := s1.busByte p 3 ++ s1.busByte p 2 ++ s1.busByte p 1 ++ s1.busByte p 0
    va = s.reg a + imm16.signExtend 32
    ∧ (s.Reaches va .load false p s1 →
      loads (.ldb b a imm16) 1 (byte.signExtend 32) ∧ loads (.ldbu b a imm16) 1 (byte.setWidth 32)
      ∧ (va.toNat % 2 = 0 →
        loads (.ldh b a imm16) 2 (half.signExtend 32) ∧ loads (.ldhu b a imm16) 2 (half.setWidth 32))
      ∧ (va.toNat % 4 = 0 → loads (.ldw b a imm16) 4 word))
    ∧ (s.Reaches va .load true p s1 →
      loads (.ldbio b a imm16) 1 (byte.signExtend 32) ∧ loads (.ldbuio b a imm16) 1 (byte.setWidth 32)
      ∧ (va.toNat % 2 = 0 →
        loads (.ldhio b a imm16) 2 (half.signExtend 32) ∧ loads (.ldhuio b a imm16) 2 (half.setWidth 32))
      ∧ (va.toNat % 4 = 0 → loads (.ldwio b a imm16) 4 word))

/-- The six stores to memory itself: the words; at an aligned address the low bytes of rB, lowest first, at the translated address,
and no other byte of memory, no register and no other state but `pc`, the ECC mark of the word and the old instruction words that may
still run changed (a byte stored where the platform has no memory is lost, logs 20 and 21; the old words are log 39). Through the
data master a word of an instruction tightly-coupled memory stored whole keeps no ECC error (70_reset_and_hazards.md R534, log 44). A
data tightly-coupled memory of a core with ECC is in `EccFetchAndTcm`; what the translation leaves, `s1`, in `TlbTranslation`,
`MpuDataCheck` and `EccTlb`. -/
def Obligations.StoreResults : Prop :=
  ∀ (a b : RegIdx) (imm16 : BitVec 16),
    Coded (wordI a b imm16 0x05#6) (.stb b a imm16) ∧ Coded (wordI a b imm16 0x25#6) (.stbio b a imm16)
    ∧ Coded (wordI a b imm16 0x0D#6) (.sth b a imm16) ∧ Coded (wordI a b imm16 0x2D#6) (.sthio b a imm16)
    ∧ Coded (wordI a b imm16 0x15#6) (.stw b a imm16) ∧ Coded (wordI a b imm16 0x35#6) (.stwio b a imm16) ∧
    ∀ (s s1 : State) (p : Nat), s.mem.wf = true →
    let va := s.effAddr a imm16
    let v := s.reg b
    let stores (i : Instr) (bs : List Byte) := ∃ t, exec i s = .next t ∧ Stored s1 t p bs
    let byte (k : Nat) : Byte := v.extractLsb' (8 * k) 8
    (s.Reaches va .store false p s1 →
      stores (.stb b a imm16) [byte 0]
      ∧ (va.toNat % 2 = 0 → stores (.sth b a imm16) [byte 0, byte 1])
      ∧ (va.toNat % 4 = 0 → stores (.stw b a imm16) [byte 0, byte 1, byte 2, byte 3]))
    ∧ (s.Reaches va .store true p s1 →
      stores (.stbio b a imm16) [byte 0]
      ∧ (va.toNat % 2 = 0 → stores (.sthio b a imm16) [byte 0, byte 1])
      ∧ (va.toNat % 4 = 0 → stores (.stwio b a imm16) [byte 0, byte 1, byte 2, byte 3]))

/-- A halfword or word access at an address that is no multiple of its width raises the misaligned-data-address exception,
cause 6, where the check is on. Where it is off a load writes any value to rB, a store leaves any value in the bytes of the
aligned unit and of its successor, in memory and in a data cache line that holds them; nothing else changes but the ECC marks of those
words and the old instruction words that may still run (log 39), and nothing is raised (20_memory.md R108, U5, log 22; a destination
of register 0 of a shadow set by 40_data_transfer.md R259(d) or 10_state.md R25 as `loadsWriteShadowR0` says, the model's
choice, log 38). -/
def Obligations.MisalignedDataAccess : Prop :=
  ∀ (s : State) (a b : RegIdx) (imm16 : BitVec 16), s.Ready → s.UserMay (s.effAddr a imm16) → s.mem.wf = true →
    s.LinesWhole →
    let va := s.effAddr a imm16
    let raises (i : Instr) := Raises i s (.misalignedData va) 6#5
    let free (i : Instr) := ∃ t, exec i s = .next t
      ∧ LoadResult s.drawn t b (Config.freeWord s.draws) (s.pc + 4#32)
    let unit (n : Nat) : Word := BitVec.ofNat 32 (va.toNat / n * n)
    let p (n : Nat) := flatPhysical s.cfg (unit n)
    let q (n : Nat) := flatPhysical s.cfg (unit n + BitVec.ofNat 32 n)
    let outside (n x : Nat) := (x < p n ∨ p n + n ≤ x) ∧ (x < q n ∨ q n + n ≤ x)
    let scrambles (i : Instr) (n : Nat) := ∃ t, exec i s = .next t
      ∧ t = { s with pc := s.pc + 4#32, mem := t.mem, dcache := t.dcache, tcmEcc := t.tcmEcc, prefetched := t.prefetched,
                     readAhead := t.readAhead, draws := t.draws }
      ∧ (s.cfg.ecc = false → t.tcmEcc = s.tcmEcc)
      ∧ (∀ k, (∀ j, j < 4 → outside n (4 * k + j)) →
        sparseGet EccMark.none t.tcmEcc k = sparseGet EccMark.none s.tcmEcc k)
      ∧ (∀ x, outside n x → t.mem.read x = s.mem.read x)
      ∧ (∃ d, ∀ k, k < n → t.mem.read (p n + k) =
          if s.cfg.dataRam (p n + k) then Config.freeByte d k else s.mem.read (p n + k))
      ∧ (∃ d, ∀ k, k < n → t.mem.read (q n + k) =
          if s.cfg.dataRam (q n + k) then Config.freeByte d k else s.mem.read (q n + k))
      ∧ (∀ j, t.dline j = { s.dline j with data := (t.dline j).data }
        ∧ ∀ o, o < 32 → outside n ((s.dline j).line * 32 + o) → (t.dline j).data.getD o 0#8 = (s.dline j).data.getD o 0#8)
      ∧ KeepsPrefetched s t
    (va.toNat % 2 ≠ 0 →
      (s.cfg.misalignedChecked = true → raises (.ldh b a imm16) ∧ raises (.ldhu b a imm16) ∧ raises (.ldhio b a imm16)
        ∧ raises (.ldhuio b a imm16) ∧ raises (.sth b a imm16) ∧ raises (.sthio b a imm16))
      ∧ (s.cfg.misalignedChecked = false →
        free (.ldh b a imm16) ∧ free (.ldhio b a imm16) ∧ free (.ldhu b a imm16) ∧ free (.ldhuio b a imm16)
        ∧ scrambles (.sth b a imm16) 2 ∧ scrambles (.sthio b a imm16) 2))
    ∧ (va.toNat % 4 ≠ 0 →
      (s.cfg.misalignedChecked = true → raises (.ldw b a imm16) ∧ raises (.ldwio b a imm16) ∧ raises (.stw b a imm16)
        ∧ raises (.stwio b a imm16))
      ∧ (s.cfg.misalignedChecked = false →
        free (.ldw b a imm16) ∧ free (.ldwio b a imm16) ∧ scrambles (.stw b a imm16) 4 ∧ scrambles (.stwio b a imm16) 4))

/-- What user mode may not do. With an MMU, every load, every store, `flushda` and `initda` at an address whose bit 31 is one
raises the supervisor-only-data-address exception, cause 11, whatever its alignment (21_mmu_mpu.md R154, 60_exceptions.md R441),
`flushda` and `initda` on a core without a data cache too (D18, log 51). The eight supervisor-only instructions raise cause 10,
`rdprs` and `wrprs` on a core with shadow sets (46_other_control.md R391; the core without them is in `PreviousSetResults`). -/
def Obligations.UserModeTraps : Prop :=
  ∀ (s : State) (a b : RegIdx) (imm16 : BitVec 16) (n : BitVec 5), stU s.status = true →
    (s.cfg.mmu = true → bit (s.effAddr a imm16) 31 = true →
      let raises (i : Instr) := Raises i s (.supervisorOnlyDataAddr (s.effAddr a imm16)) 11#5
      raises (.ldb b a imm16) ∧ raises (.ldbio b a imm16) ∧ raises (.ldbu b a imm16) ∧ raises (.ldbuio b a imm16)
      ∧ raises (.ldh b a imm16) ∧ raises (.ldhio b a imm16) ∧ raises (.ldhu b a imm16) ∧ raises (.ldhuio b a imm16)
      ∧ raises (.ldw b a imm16) ∧ raises (.ldwio b a imm16) ∧ raises (.stb b a imm16) ∧ raises (.stbio b a imm16)
      ∧ raises (.sth b a imm16) ∧ raises (.sthio b a imm16) ∧ raises (.stw b a imm16) ∧ raises (.stwio b a imm16)
      ∧ raises (.flushda a imm16) ∧ (s.cfg.initdaImplemented = true → raises (.initda a imm16)))
    ∧ let raises (i : Instr) := Raises i s .supervisorOnlyInstr 10#5
      raises (.initd a imm16) ∧ raises (.initi a) ∧ raises .eret ∧ raises .bret ∧ raises (.rdctl b n)
      ∧ raises (.wrctl n a)
      ∧ (s.cfg.shadowSets ≠ 0 → raises (.rdprs b a imm16) ∧ raises (.wrprs b a))

/-- Addresses that no TLB entry and no MPU region decides. Without an MMU, and with the MPU absent or off, a data address is its
own physical address but for a bit 31 that selects the cache bypass, and is cacheable unless that bit is one or the peripheral
region holds it (21_mmu_mpu.md R150, 20_memory.md R121, R122). With an MMU the kernel and I/O partitions bypass the TLB: the
physical address is the low 29 bits of the virtual one, cacheable in the kernel partition only (21_mmu_mpu.md R152, R153,
R167, R168). -/
def Obligations.UnmappedTranslation : Prop :=
  ∀ (s : State) (va : Word) (kind : AccessKind),
    (s.cfg.mmu = false → s.mpuOn = false →
      let p := if s.cfg.bypass31 then va.toNat % 2 ^ 31 else va.toNat
      let periph := s.cfg.periphRegion.any (fun g => decide (g.base ≤ p ∧ p < g.base + g.size))
      translateData va kind s = .ok (p, !(s.cfg.bypass31 && decide (2 ^ 31 ≤ va.toNat)) && !periph) s)
    ∧ (s.cfg.mmu = true → 0xC0000000 ≤ va.toNat →
      translateData va kind s = .ok (va.toNat % 2 ^ 29, decide (va.toNat < 0xE0000000)) s
      ∧ (stU s.status = false → mmuFetch va s = .ok (va.toNat % 2 ^ 29) s)
      ∧ (stU s.status = true → mmuFetch va s = .stop (.next (s.take .supervisorOnlyInstrAddr))))

/-- With an MMU, on a core without ECC, an address of the user and kernel MMU partitions goes through the TLB: no match is a
TLB miss, one match gives the frame or a permission violation, two matches have no defined behaviour (U9, log 25), for data and
for a fetch (21_mmu_mpu.md R156, R157, R167, R168). How a VPN splits into line and tag is log 49. On every core a translation
changes nothing but the TLB, the ECC signals and the model's draw counter, and, without ECC, that counter alone; an aligned load or store,
`flushda` and `initda` end in what stops their translation (here, in `MpuDataCheck` or in `EccTlb`) or their access to memory
and caches (`EccDataCache`, `EccFetchAndTcm`), with no effect of their own (20_memory.md R110 to R112, 46_other_control.md R405). That
`flushda` and `initda` are translated, and end in what stops their translation, on a core without a data cache too is the model's
choice (D18, log 51). -/
def Obligations.TlbTranslation : Prop :=
  (∀ (s : State) (a b : RegIdx) (imm16 : BitVec 16), s.UserMay (s.effAddr a imm16) →
    let va := s.effAddr a imm16
    let stops (i : Instr) (kind : AccessKind) (ends : Nat → Bool → State → Result → Prop) :=
      (∀ r, translateData va kind s = .stop r → exec i s = r)
      ∧ ∀ p c s1 r, translateData va kind s = .ok (p, c) s1 → ends p c s1 r → exec i s = r
    let bytes (n : Nat) : List Byte := (List.range n).map (fun k => (s.reg b).extractLsb' (8 * k) 8)
    let load (i : Instr) (io : Bool) (n : Nat) :=
      va.toNat % n = 0 → stops i .load (fun p c s1 r => physRead va io c p n s1 = .stop r)
    let store (i : Instr) (io : Bool) (n : Nat) :=
      va.toNat % n = 0 → stops i .store (fun p c s1 r => physWrite va io c p (bytes n) s1 = .stop r)
    load (.ldb b a imm16) false 1 ∧ load (.ldbu b a imm16) false 1 ∧ load (.ldbio b a imm16) true 1
    ∧ load (.ldbuio b a imm16) true 1 ∧ load (.ldh b a imm16) false 2 ∧ load (.ldhu b a imm16) false 2
    ∧ load (.ldhio b a imm16) true 2 ∧ load (.ldhuio b a imm16) true 2 ∧ load (.ldw b a imm16) false 4
    ∧ load (.ldwio b a imm16) true 4 ∧ store (.stb b a imm16) false 1 ∧ store (.stbio b a imm16) true 1
    ∧ store (.sth b a imm16) false 2 ∧ store (.sthio b a imm16) true 2 ∧ store (.stw b a imm16) false 4
    ∧ store (.stwio b a imm16) true 4
    ∧ stops (.flushda a imm16) .flushda (fun p _ s1 r => dcacheFlushAddr va p s1 = .stop r)
    ∧ (s.cfg.initdaImplemented = true →
      stops (.initda a imm16) .initda (fun p _ s1 r => dcacheInitAddr va p s1 = .stop r)))
  ∧ (∀ (s s1 : State) (va : Word) (kind : AccessKind) (p : Nat) (c : Bool), translateData va kind s = .ok (p, c) s1 →
    s1 = { s with tlb := s1.tlb, eccBus := s1.eccBus, draws := s1.draws }
    ∧ (s.cfg.ecc = false → s1.tlb = s.tlb ∧ s1.eccBus = s.eccBus))
  ∧ ∀ (s : State) (va : Word) (kind : AccessKind), s.cfg.mmu = true → s.cfg.ecc = false → va.toNat < 0xC0000000 →
    match s.tlbFinds (va.extractLsb' 12 20) with
    | [] =>
      translateData va kind s = .stop (.next (s.take (.tlbMissData va)))
      ∧ ((stU s.status && bit va 31) = false → mmuFetch va s = .stop (.next (s.take .tlbMissInstr)))
    | [e] =>
      translateData va kind s =
        (if kind = .load ∧ e.r = false then .stop (.next (s.take (.tlbPermRead va)))
        else if kind = .store ∧ e.w = false then .stop (.next (s.take (.tlbPermWrite va)))
        else .ok (e.pfn.toNat * 4096 + va.toNat % 4096, e.c) s)
      ∧ ((stU s.status && bit va 31) = false →
        mmuFetch va s = if e.x then .ok (e.pfn.toNat * 4096 + va.toNat % 4096) s
          else .stop (.next (s.take .tlbPermExecute)))
    | _ :: _ :: _ =>
      translateData va kind s = .stop (.fault .multipleTlbMatch)
      ∧ ((stU s.status && bit va 31) = false → mmuFetch va s = .stop (.fault .multipleTlbMatch))

/-- With the MPU on, a data address is checked against the first data region that matches it: outside every region, or
without the permission that PERM grants to the current mode, the access raises an MPU region violation, cause 17; `flushda` and
`initda` need what MPU_CACHEOP_PERM says (D13). Of a granted access MT decides whether it may be cached, and under the bypass bit 31
and in the peripheral region it may not (21_mmu_mpu.md R172 to R176, 20_memory.md R121, R122, R124). The model's: a MASK of 0 read
by the formula (log 26), the comparison without bit 31 (log 51), the cacheability and the draw of MT = 3 (U7, log 24), the stop on a
reserved PERM (U13, log 27). That a load, a store, `flushda` and `initda` then end so is in `TlbTranslation`. -/
def Obligations.MpuDataCheck : Prop :=
  ∀ (s : State) (va : Word) (kind : AccessKind), s.cfg.mmu = false → s.mpuOn = true →
    (∀ g ∈ s.dregions, regionMisaligned s.cfg g = false) →
    let p := flatPhysical s.cfg va
    let violates := translateData va kind s = .stop (.next (s.take (.mpuData va)))
    let user := stU s.status
    let grants (g : MpuRegion) := ∃ c, translateData va kind s = .ok (p, c) (if g.mt = 3#2 then s.drawn else s)
      ∧ ((s.cfg.bypass31 && bit va 31) = true ∨ inPeriph s.cfg p = true ∨ g.mt = 0#2 ∨ g.mt = 2#2 → c = false)
      ∧ ((s.cfg.bypass31 && bit va 31) = false → inPeriph s.cfg p = false → g.mt = 1#2 → c = true)
    let readable (g : MpuRegion) := g.perm ∈ (if user then [2#3, 5#3, 6#3] else [1#3, 2#3, 4#3, 5#3, 6#3])
    let writable (g : MpuRegion) := g.perm ∈ (if user then [6#3] else [4#3, 5#3, 6#3])
    match (if p < 2 ^ s.cfg.daddrWidth then
        s.dregions.find? (fun g =>
          if s.cfg.mpuUseLimit then decide (g.base.toNat * 256 ≤ p ∧ p < g.lim.toNat * 256)
          else decide (Nat.land p (g.lim.toNat * 256) = g.base.toNat * 256))
      else none) with
    | none => violates
    | some g =>
      (g.perm ∈ [0#3, 1#3, 2#3, 4#3, 5#3, 6#3] →
        (kind = .load → if readable g then grants g else violates)
        ∧ (kind = .store → if writable g then grants g else violates)
        ∧ (kind = .flushda ∨ kind = .initda →
          if s.cfg.mpuCacheOpPerm = .none ∨ (s.cfg.mpuCacheOpPerm = .read ∧ readable g)
              ∨ (s.cfg.mpuCacheOpPerm = .write ∧ writable g) then grants g
          else violates))
      ∧ (g.perm = 3#3 ∨ g.perm = 7#3 → translateData va kind s = .stop (.fault .reservedMpuPermission))

/-- A fetch that the memory management refuses: the step takes the exception of the fetch, on a core without ECC (21_mmu_mpu.md R168,
R173, R174, R176, 60_exceptions.md R441). With the MPU on the first instruction region that matches decides, whatever later ones grant,
and an address that none matches, or outside the instruction address width, violates; a reserved PERM stops (U13, log 27), and so do two
TLB entries that match (U9, log 25). How a VPN splits into line and tag is log 49, a MASK of 0 log 26, the bit 31 of a fetch address log
51. A fetch that is granted is in `FetchedWord`, one with ECC in `EccTlb` and `EccFetchAndTcm`. -/
def Obligations.FetchExceptions : Prop :=
  ∀ (s : State), s.Quiet → s.SetImplemented → s.PcAligned → s.cfg.ecc = false →
    let s0 := { s with eccBus := 0#30 }
    (s.cfg.mmu = true →
      (stU s.status = true → bit s.pc 31 = true → step s = .next (s0.take .supervisorOnlyInstrAddr))
      ∧ (s.pc.toNat < 0xC0000000 → (stU s.status && bit s.pc 31) = false →
        (s.tlbFinds (s.pc.extractLsb' 12 20) = [] → step s = .next (s0.take .tlbMissInstr))
        ∧ (∀ e, s.tlbFinds (s.pc.extractLsb' 12 20) = [e] → e.x = false → step s = .next (s0.take .tlbPermExecute))
        ∧ ∀ e1 e2 es, s.tlbFinds (s.pc.extractLsb' 12 20) = e1 :: e2 :: es → step s = .fault .multipleTlbMatch))
    ∧ (s.cfg.mmu = false → s.mpuOn = true → (∀ g ∈ s.iregions, regionMisaligned s.cfg g = false) →
      let first := s.iregions.find? (fun g => regionMatches s.cfg g s.pc.toNat)
      (2 ^ s.cfg.iaddrWidth ≤ s.pc.toNat → step s = .next (s0.take .mpuInstr))
      ∧ (first = none → step s = .next (s0.take .mpuInstr))
      ∧ ∀ g, first = some g →
        (g.perm = 0#3 ∨ (g.perm = 1#3 ∧ stU s.status = true) → step s = .next (s0.take .mpuInstr))
        ∧ (s.pc.toNat < 2 ^ s.cfg.iaddrWidth → g.perm.toNat ≥ 3 → step s = .fault .reservedMpuPermission))

/-! ## The caches (20_memory.md) -/

/-- A load through the data cache of a core without ECC: the bytes the line holds on a hit, memory's on a miss, or any value where
the platform maps nothing at a byte of the access (U4, log 20). On a miss the line takes the 32 bytes of memory around the
address, its old contents going to memory at once if they were valid and dirty (log 39); no other byte of memory changes
(20_memory.md R110, R125; a destination of register 0 of a shadow set by 40_data_transfer.md R259(d) or 10_state.md R25 as
`loadsWriteShadowR0` says, the model's choice, log 38). The translation leaves the state `s1`, which differs from `s` at most in the
draw of an MPU region with MT = 3 (`MpuDataCheck`). -/
def Obligations.CachedLoadResults : Prop :=
  ∀ (s s1 : State) (a b : RegIdx) (imm16 : BitVec 16) (p : Nat), s.Ready → s.mem.wf = true →
    s.Caches (s.effAddr a imm16) .load p s1 →
    let va := s.effAddr a imm16
    let i := s.dindex va
    let cached (t : State) : State :=
      { s1 with mem := t.mem, dcache := t.dcache, prefetched := t.prefetched, readAhead := t.readAhead, draws := t.draws }
    let loads (ins : Instr) (n : Nat) (v : Word) := ∃ t, exec ins s = .next t
      ∧ (if ∀ k, k < n → s.cfg.dataMapped (p + k) = true then
          LoadResult (cached t) t b v (s.pc + 4#32) ∧ (s.Hits va p → t.draws = s1.draws)
        else ∃ d, LoadResult (cached t) t b (Config.freeWord d) (s.pc + 4#32))
      ∧ KeepsPrefetched s1 t
      ∧ (s.Hits va p → t.mem = s.mem ∧ t.dcache = s.dcache)
      ∧ (¬ s.Hits va p →
        (∀ x, t.mem.read x = if (s.dline i).valid then s.afterWriteBack (s.dline i) x else s.mem.read x)
        ∧ (t.dline i).valid = true ∧ (t.dline i).dirty = false ∧ (t.dline i).stored = false ∧ (t.dline i).line = p / 32
        ∧ (∀ o, o < 32 → (t.dline i).data.getD o 0#8 = s1.cachedByte va (p / 32 * 32) o)
        ∧ ∀ j, j ≠ i → t.dline j = s.dline j)
    let byte (k : Nat) := s1.cachedByte va p k
    loads (.ldb b a imm16) 1 ((byte 0).signExtend 32) ∧ loads (.ldbu b a imm16) 1 ((byte 0).setWidth 32)
    ∧ (va.toNat % 2 = 0 →
      loads (.ldh b a imm16) 2 ((byte 1 ++ byte 0).signExtend 32)
      ∧ loads (.ldhu b a imm16) 2 ((byte 1 ++ byte 0).setWidth 32))
    ∧ (va.toNat % 4 = 0 → loads (.ldw b a imm16) 4 (byte 3 ++ byte 2 ++ byte 1 ++ byte 0))

/-- A store through the data cache of a core without ECC: the line is allocated on a miss, its bytes are written and it is
dirty; memory itself receives nothing but the dirty line it displaces, at once (log 39) and where the platform has memory for it,
the fill finding free bytes where it has none (logs 20 and 21) (20_memory.md R111, R125). The translation leaves the state `s1`, as in
`CachedLoadResults`. Without an MMU and with the MPU absent or off, a word stored so is what a load of the same word through the cache
reads next, where the platform maps it, while an uncached read of memory does not see it (R125, R130; a
destination of register 0 of a shadow set by 40_data_transfer.md R259(d) or 10_state.md R25 as `loadsWriteShadowR0` says, the
model's choice, log 38). -/
def Obligations.CachedStoreResults : Prop :=
  ∀ (s s1 : State) (a b : RegIdx) (imm16 : BitVec 16) (p : Nat), s.mem.wf = true →
    s.Caches (s.effAddr a imm16) .store p s1 →
    let va := s.effAddr a imm16
    let i := s.dindex va
    let stores (ins : Instr) (n : Nat) := ∃ t, exec ins s = .next t
      ∧ t = { s1 with pc := s.pc + 4#32, mem := t.mem, dcache := t.dcache, prefetched := t.prefetched,
                      readAhead := t.readAhead, draws := t.draws }
      ∧ KeepsPrefetched s1 t
      ∧ (s.Hits va p → t.mem = s.mem ∧ t.draws = s1.draws)
      ∧ (¬ s.Hits va p → ∀ x, t.mem.read x = if (s.dline i).valid then s.afterWriteBack (s.dline i) x else s.mem.read x)
      ∧ (t.dline i).valid = true ∧ (t.dline i).dirty = true ∧ (t.dline i).stored = true ∧ (t.dline i).line = p / 32
      ∧ (∀ k, k < n → (t.dline i).data.getD (p % 32 + k) 0#8 = (s.reg b).extractLsb' (8 * k) 8)
      ∧ (∀ o, o < 32 → o < p % 32 ∨ p % 32 + n ≤ o →
        (t.dline i).data.getD o 0#8 = s1.cachedByte va (p / 32 * 32) o)
      ∧ ∀ j, j ≠ i → t.dline j = s.dline j
    stores (.stb b a imm16) 1 ∧ (va.toNat % 2 = 0 → stores (.sth b a imm16) 2)
    ∧ (va.toNat % 4 = 0 → stores (.stw b a imm16) 4)
    ∧ ∀ c : RegIdx, s.Ready → s.cfg.mmu = false → s.mpuOn = false → va.toNat % 4 = 0 →
      (∀ k, k < 4 → s.cfg.dataMapped (p + k) = true) →
      ∃ t u, exec (.stw b a imm16) s = .next t
        ∧ exec (.ldw c a imm16) t = .next u ∧ LoadResult t u c (s.reg b) (t.pc + 4#32)
        ∧ (s.Hits va p → ∀ x, t.mem.read x = s.mem.read x)

/-- The four data cache instructions on a core without ECC: the words; `flushd` and `initd` clear the line that the address indexes,
`flushda` and `initda` only a line that holds the address; the flushing ones write a dirty line back to the address its tag
names, the others lose it; no register changes (20_memory.md R126 to R129, 46_other_control.md R397 to R403). `flushd`
writes back a line that is dirty, valid or not (R126). The translation of `flushda` and `initda` leaves the state `s1`, as in
`CachedLoadResults`. That the line is in memory when the instruction ends is log 39; that its bytes are
lost where the platform has no memory, logs 20 and 21. -/
def Obligations.DataCacheInstructions : Prop :=
  ∀ (a : RegIdx) (imm16 : BitVec 16),
    Coded (wordI a 0#5 imm16 0x3B#6) (.flushd a imm16) ∧ Coded (wordI a 0#5 imm16 0x1B#6) (.flushda a imm16)
    ∧ Coded (wordI a 0#5 imm16 0x33#6) (.initd a imm16) ∧ Coded (wordI a 0#5 imm16 0x13#6) (.initda a imm16) ∧
    ∀ s : State, s.mem.wf = true → s.LinesWhole → s.cfg.ecc = false →
    let va := s.effAddr a imm16
    let i := s.dindex va
    let does (ins : Instr) (s1 : State) (clears writesBack : Prop) := ∃ t, exec ins s = .next t
      ∧ t = { s1 with pc := s.pc + 4#32, mem := t.mem, dcache := t.dcache, prefetched := t.prefetched,
                      readAhead := t.readAhead }
      ∧ KeepsPrefetched s1 t
      ∧ (¬ clears → t.mem = s.mem ∧ t.dcache = s.dcache)
      ∧ (clears → (t.dline i).valid = false ∧ ∀ j, j ≠ i → t.dline j = s.dline j)
      ∧ (clears ∧ writesBack → ∀ x, t.mem.read x = s.afterWriteBack (s.dline i) x)
      ∧ (¬ writesBack → t.mem = s.mem)
    does (.flushd a imm16) s (s.cfg.dcacheSize ≠ 0) True
    ∧ (stU s.status = false → does (.initd a imm16) s (s.cfg.dcacheSize ≠ 0) False)
    ∧ (∀ p c s1, s.UserMay va → translateData va .flushda s = .ok (p, c) s1 →
      does (.flushda a imm16) s1 (s.cfg.dcacheSize ≠ 0 ∧ s.Hits va p ∧ inTcm s.cfg.dtcms p = false
        ∧ inTcm s.cfg.itcms p = false) True)
    ∧ (∀ p c s1, s.cfg.initdaImplemented = true → s.UserMay va → translateData va .initda s = .ok (p, c) s1 →
      does (.initda a imm16) s1 (s.cfg.dcacheSize ≠ 0 ∧ s.Hits va p ∧ inTcm s.cfg.dtcms p = false
        ∧ inTcm s.cfg.itcms p = false) False)
    ∧ (s.cfg.initdaImplemented = false → Raises (.initda a imm16) s .unimplemented 4#5)

/-- `flushi` and `initi`: the words; they clear the valid bit of the instruction cache line that rA indexes, whatever its tag, and
change nothing else but `pc` and where old instruction words may still be: the cache holds none at that index, the pipeline may hold
those it held, for fetches by that index only (20_memory.md R133, R136; the model's choice, log 39); without an instruction cache they
do nothing; `initi` is supervisor-only (20_memory.md R132, R145, 46_other_control.md R399, R404). -/
def Obligations.InstructionCacheInstructions : Prop :=
  ∀ a : RegIdx, Coded (wordR a 0#5 0#5 0x0C#6 0#5) (.flushi a) ∧ Coded (wordR a 0#5 0#5 0x29#6 0#5) (.initi a) ∧
    ∀ s : State, s.Canonical →
    let i := (s.reg a).toNat / 32 % (s.cfg.icacheSize / 32)
    let does (ins : Instr) := ∃ t, exec ins s = .next t ∧ t = { s with
        pc := s.pc + 4#32, icache := t.icache, prefetched := t.prefetched, readAhead := t.readAhead }
      ∧ (s.cfg.icacheSize = 0 → t.icache = s.icache ∧ t.prefetched = s.prefetched ∧ t.readAhead = s.readAhead)
      ∧ (s.cfg.icacheSize ≠ 0 → FlushesAhead s t i
        ∧ ∀ j, t.iline j = if j = i then { s.iline i with valid := false } else s.iline j)
    does (.flushi a) ∧ (stU s.status = false → does (.initi a))
    ∧ (stU s.status = true → Raises (.initi a) s .supervisorOnlyInstr 10#5)

/-! ## The step (60_exceptions.md R440, R441) -/

/-- A step runs the decoded instruction: with nothing pending, a fetch that raises nothing, a word that decodes to `i`, and source
registers whose reading raises nothing, the step is `exec i` at the state that the fetch and the reading leave; where a check before
any operand ends the instruction (`trapsAtDecode`; 46_other_control.md R391, 41_arith_logic.md R293), at the state that the fetch
leaves, nothing read. In the order of 60_exceptions.md R441: a fetch that raises at once is the step; then an error of a source
register; then an exception of the fetch that ranks below it, whatever the word, which leaves no trace where it loses. Which registers
count as read where the fetch has such an exception, those of the word that it found all the same, is the model's choice (log 55), as
is that a word with constant fields other than those of the tables runs as the instruction where `nonCanonicalRuns` says so and is
refused where it does not (log 36). -/
def Obligations.StepRunsDecoded : Prop :=
  ∀ s : State, s.Quiet → s.SetImplemented →
    let s0 := { s with eccBus := 0#30 }
    (∀ r, fetch s0 = .stop r → step s = r)
    ∧ ∀ (f : Fetched) (s1 : State), fetch s0 = .ok f s1 →
      (∀ (i : Instr) (rest : List Byte), decode (bytesOfWord f.word) = .ok (i, rest) →
        (∀ r, readSources (sources i s1) s1 = .stop r → step s = r)
        ∧ ∀ s2, readSources (sources i s1) s1 = .ok () s2 →
          (∀ x, f.late = some x → step s = .next (s2.takeLate x))
          ∧ (f.late = none → (canonical i f.word || s2.cfg.nonCanonicalRuns) = true →
            step s = exec i (if trapsAtDecode i s1 then s1 else s2))
          ∧ (f.late = none → (canonical i f.word || s2.cfg.nonCanonicalRuns) = false →
            step s = .refused .nonCanonicalWord))
      ∧ ∀ e x, decode (bytesOfWord f.word) = .error e → f.late = some x → step s = .next (s1.takeLate x)

/-- The same from the bytes in memory: on a core that fetches from memory itself, without ECC, with no other word of the address
that may run, when the four bytes at an aligned `pc` decode to `i`, the step is `exec i` at the same state, its ECC signals cleared
(20_memory.md R109, R113). Which other words may run is the model's choice (log 39): on a core without caches none ever may, so
that a word stored by the instruction before is the one that runs; on a core with a cache `FetchedWord` says what runs. That
a word with constant fields other than those of the tables runs where `nonCanonicalRuns` says so is the model's as well (log 36). -/
def Obligations.StepRunsBytesAtPc : Prop :=
  ∀ (s : State) (i : Instr), s.Quiet → s.SetImplemented → s.PcAligned → s.cfg.mmu = false → s.mpuOn = false →
    s.cfg.ecc = false → s.cfg.icacheSize = 0 → (∀ w, ¬ s.MayRun s.pc s.pc.toNat w) →
    (∀ k, k < 4 → s.cfg.fetchRam (s.pc.toNat + k) = true) →
    let bytes := [s.mem.read s.pc.toNat, s.mem.read (s.pc.toNat + 1), s.mem.read (s.pc.toNat + 2),
      s.mem.read (s.pc.toNat + 3)]
    decode bytes = .ok (i, []) → (bytesOfWord (encode i) = bytes ∨ s.cfg.nonCanonicalRuns = true) →
    step s = exec i { s with eccBus := 0#30 }

/-- What a fetch at an aligned `pc` reads, on a core without ECC. The physical address: that of the TLB entry that matches and
grants execution, that of the kernel partition, or `pc` itself without an MMU, where the MPU is off or grants execution. The word
there: an instruction tightly-coupled memory's; the line's on a hit of the instruction cache; memory's on a miss, which fills the
line; memory's without an instruction cache; bytes where the platform has no memory being free values (20_memory.md R103, R113,
R132, 21_mmu_mpu.md R168, R176; logs 9, 20, 21). Where the pipeline or a cache may still hold other words of the address, which
`State.MayRun` says, one of them or that word, as a free choice says (R133, U8, log 39). A VPN's line and tag are log 49, a MASK
of 0 log 26. -/
def Obligations.FetchedWord : Prop :=
  ∀ s : State, s.PcAligned → s.cfg.ecc = false → s.cfg.wf = true → s.Canonical → s.LinesWhole →
    s.icache.length = s.cfg.icacheSize / 32 →
    let va := s.pc
    let user := stU s.status
    let reads (p : Nat) := fetch s = fetchAt va p s
    let tcm (p : Nat) := tcmNumber s.cfg.itcms p ≠ none
    let cached (p : Nat) := s.cfg.icacheSize ≠ 0 ∧ ¬ tcm p ∧ inTcm s.cfg.dtcms p = false
    let i := va.toNat / 32 % (s.cfg.icacheSize / 32)
    let hits (p : Nat) := (s.iline i).valid = true ∧ (s.iline i).line = p / 32
    let bytes (ram : Nat → Bool) (p k : Nat) : Byte :=
      if ram (p + k) then s.mem.read (p + k) else Config.freeByte s.draws k
    let word (b : Nat → Byte) : Word := b 3 ++ b 2 ++ b 1 ++ b 0
    let found (p : Nat) (w : Word) (t : State) := ∃ (f : Fetched) (d : Nat) (others : List Word), fetchAt va p s = .ok f t
      ∧ f.late = none ∧ t = { s with icache := t.icache, prefetched := t.prefetched, draws := t.draws }
      ∧ f.word = others.getD (Config.freeNat d) w ∧ ∀ x, x ∈ others ↔ s.MayRun va p x
    (s.cfg.mmu = true → (user && bit va 31) = false → va.toNat < 0xC0000000 →
      ∀ e, s.tlbFinds (va.extractLsb' 12 20) = [e] → e.x = true → reads (e.pfn.toNat * 4096 + va.toNat % 4096))
    ∧ (s.cfg.mmu = true → user = false → 0xC0000000 ≤ va.toNat → reads (va.toNat % 2 ^ 29))
    ∧ (s.cfg.mmu = false → s.mpuOn = false → reads va.toNat)
    ∧ (s.cfg.mmu = false → s.mpuOn = true → (∀ g ∈ s.iregions, regionMisaligned s.cfg g = false) →
      va.toNat < 2 ^ s.cfg.iaddrWidth → ∀ g, s.iregions.find? (fun g => regionMatches s.cfg g va.toNat) = some g →
      g.perm = 2#3 ∨ (g.perm = 1#3 ∧ user = false) → reads va.toNat)
    ∧ ∀ p, p % 4 = 0 →
      (¬ cached p → ∃ t, found p (word (bytes s.cfg.fetchRam p)) t ∧ t.icache = s.icache ∧ t.prefetched = s.prefetched)
      ∧ (cached p → hits p → ∃ t, found p (word (fun k => (s.iline i).data.getD (p % 32 + k) 0#8)) t
        ∧ t.icache = s.icache ∧ t.prefetched = s.prefetched)
      ∧ (cached p → ¬ hits p → ∃ t,
        found p (word (fun k => bytes s.cfg.ilineRam (p / 32 * 32) (p % 32 + k))) t
        ∧ (t.iline i).valid = true ∧ (t.iline i).line = p / 32
        ∧ (∀ o, o < 32 → (t.iline i).data.getD o 0#8 = bytes s.cfg.ilineRam (p / 32 * 32) o)
        ∧ ∀ j, j ≠ i → t.iline j = s.iline j)

/-- The order of the events at a boundary, one clause for each event that is pending with none before it (R440); a request for an
unimplemented register set is refused (U24). The model's choices: that an interrupt is taken at the first boundary (D24, log 37),
what a writeback error waits for (log 45), that a hardware-break request is consumed when it is taken while `debugreq` is a level
(log 43), and the pause that a break begins, which holds off breaks and `cpu_resetrequest` (log 15). What an interrupt does is in
`InternalInterrupts` and `ExternalInterrupts`. -/
def Obligations.EventOrder : Prop :=
  ∀ s : State,
    let s0 := { s with eccBus := 0#30 }
    let illegalMode := s.cfg.hasEh && s.cfg.hasU && stEh s.status && stU s.status
    (s.resetPin = true → step s = .next s0.resetAll)
    ∧ (s.resetPin = false → illegalMode = true → step s = .fault .exceptionModeInUserMode)
    ∧ (s.resetPin = false → illegalMode = false →
      (s.cfg.hasDebug = true → s.debugMode = false → s.hwBreak = true ∨ (s.cfg.hasDebugReq = true ∧ s.debugReq = true) →
        step s = .next { s0.breakEntry with hwBreak := false })
      ∧ (s.breakPending = false →
        (s.cfg.hasCpuResetRequest = true → s.cpuResetRequest = true → s.debugMode = false → step s = .next s0.resetCore)
        ∧ (s.cpuResetPending = false →
          (s.writebackPending = true → step s =
            if Config.freeBool s.draws 0 then .next (State.take { s0 with draws := s.draws + 1, wbError := false } .eccWriteback)
            else interruptOrRun { s0 with draws := s.draws + 1 })
          ∧ (s.writebackPending = false →
            (s.cfg.eic = false → stPie s.status = true → (∃ n, n < 32 ∧ bit s.irq n = true ∧ bit s.ienable n = true) →
              step s = .next (s0.take .internalInterrupt))
            ∧ (s.cfg.eic = true → s.ExternalTaken →
              step s = if s.eic.rrs.toNat ≤ s.cfg.shadowSets then .next (s0.interruptEntry s.eic)
                else .refused .unimplementedSetRequest)
            ∧ (s.internalPending = false → s.externalPending = false → step s = fetchAndRun s0)))))

/-! ## Program control (45_program_control.md) -/

/-- `br` and the six conditional branches: the words; taken where the comparison holds, to `pc + 4 + sext_16(IMM16)`, or, where that
is no multiple of 4, raising the misaligned-destination exception, cause 7, with the check on and with no defined behaviour with it off
(R361, R362, U6, log 23); falling through where it does not hold (R363 to R368, R375), but that with a misaligned offset and the check
on it raises or falls through as a free choice of the model says (D17, U19, log 31). -/
def Obligations.BranchResults : Prop :=
  ∀ (a b : RegIdx) (imm16 : BitVec 16),
    Coded (wordI 0#5 0#5 imm16 0x06#6) (.br imm16) ∧ Coded (wordI a b imm16 0x26#6) (.beq a b imm16)
    ∧ Coded (wordI a b imm16 0x1E#6) (.bne a b imm16) ∧ Coded (wordI a b imm16 0x0E#6) (.bge a b imm16)
    ∧ Coded (wordI a b imm16 0x2E#6) (.bgeu a b imm16) ∧ Coded (wordI a b imm16 0x16#6) (.blt a b imm16)
    ∧ Coded (wordI a b imm16 0x36#6) (.bltu a b imm16) ∧
    ∀ s : State,
      let target := s.pc + 4#32 + imm16.signExtend 32
      let goes (i : Instr) :=
        if target.toNat % 4 = 0 then exec i s = .next { s with pc := target }
        else if s.cfg.misalignedChecked then Raises i s (.misalignedDest target) 7#5
        else exec i s = .fault .misalignedTransfer
      let branch (i : Instr) (cond : Prop) :=
        (cond → goes i)
        ∧ (¬ cond →
          if target.toNat % 4 = 0 ∨ s.cfg.misalignedChecked = false then exec i s = .next { s with pc := s.pc + 4#32 }
          else exec i s = if Config.freeBool s.draws 0 then .next (s.drawn.take (.misalignedDest target))
            else .next { s.drawn with pc := s.pc + 4#32 })
      goes (.br imm16)
      ∧ branch (.beq a b imm16) (s.reg a = s.reg b) ∧ branch (.bne a b imm16) (s.reg a ≠ s.reg b)
      ∧ branch (.bge a b imm16) ((s.reg a).toInt ≥ (s.reg b).toInt)
      ∧ branch (.bgeu a b imm16) ((s.reg a).toNat ≥ (s.reg b).toNat)
      ∧ branch (.blt a b imm16) ((s.reg a).toInt < (s.reg b).toInt)
      ∧ branch (.bltu a b imm16) ((s.reg a).toNat < (s.reg b).toNat)

/-- `call`, `callr`, `jmp`, `jmpi`, `ret` and `nextpc`: the words; the target, and the register that receives `pc + 4`;
a misaligned target of `callr`, `jmp` or `ret` raises cause 7 with the check on, and has no defined behaviour with it off (R361, U6,
log 23), leaving `ra` (R369 to R374; `nextpc r0` by R25, log 38). That `jmp r31` is refused is the model's choice: R371 calls it
illegal and says no more (U20, log 32). -/
def Obligations.CallsAndJumps : Prop :=
  ∀ (a c : RegIdx) (imm26 : BitVec 26),
    Coded (wordJ imm26 0x00#6) (.call imm26) ∧ Coded (wordR a 0#5 31#5 0x1D#6 0#5) (.callr a)
    ∧ Coded (wordR a 0#5 0#5 0x0D#6 0#5) (.jmp a) ∧ Coded (wordJ imm26 0x01#6) (.jmpi imm26)
    ∧ Coded (wordR 31#5 0#5 0#5 0x05#6 0#5) .ret ∧ Coded (wordR 0#5 0#5 c 0x1C#6 0#5) (.nextpc c) ∧
    ∀ s : State, s.Ready →
      let inSegment : Word := s.pc.extractLsb' 28 4 ++ imm26 ++ 0#2
      let raises (i : Instr) (target : Word) :=
        target.toNat % 4 ≠ 0 → if s.cfg.misalignedChecked then Raises i s (.misalignedDest target) 7#5
          else exec i s = .fault .misalignedTransfer
      let jumps (i : Instr) (target : Word) :=
        (target.toNat % 4 = 0 → exec i s = .next { s with pc := target }) ∧ raises i target
      (∃ t, exec (.call imm26) s = .next t ∧ RegResult s t 31#5 (s.pc + 4#32) inSegment)
      ∧ ((s.reg a).toNat % 4 = 0 →
        ∃ t, exec (.callr a) s = .next t ∧ RegResult s t 31#5 (s.pc + 4#32) (s.reg a))
      ∧ raises (.callr a) (s.reg a)
      ∧ (if a = 31#5 then exec (.jmp a) s = .refused .jmpR31 else jumps (.jmp a) (s.reg a))
      ∧ exec (.jmpi imm26) s = .next { s with pc := inSegment }
      ∧ jumps .ret (s.reg 31#5)
      ∧ Yields (.nextpc c) s c (s.pc + 4#32)

/-- `trap`: the word; whatever imm5 is, the trap exception, cause 3: interrupts disabled, supervisor mode, the normal
register set, the general exception vector, and, outside an exception handler, `status` in `estatus` and `pc + 4` in `ea`
(45_program_control.md R376; 60_exceptions.md R450, R451, R453 for a core with shadow sets or inside a handler, R457 for the
cause, and R450's formula for the vector of a core with an MMU, log 47). -/
def Obligations.TrapResult : Prop :=
  ∀ imm5 : BitVec 5, Coded (wordR 0#5 0#5 29#5 0x2D#6 imm5) (.trap imm5) ∧
    ∀ s : State, ∃ t, exec (.trap imm5) s = .next t ∧ t = s.take .trap
      ∧ t.pc = vectorOf s.cfg s.cfg.exceptionAddr
      ∧ stPie t.status = false ∧ stU t.status = false ∧ stCrs t.status = 0#6
      ∧ (s.cfg.isF = true → field t.exception 2 5 = 3#5)
      ∧ (stEh s.status = false → t.estatus = s.status ∧ OneGpr s t 0 29#5 (s.pc + 4#32))
      ∧ t.mem = s.mem ∧ t.bstatus = s.bstatus

/-! ## Taking an exception (60_exceptions.md R450 to R459) -/

/-- What any nonbreak exception does to `status` and what it saves. PIE, U and CRS become 0, EH 1 where implemented, PRS the old
CRS unless an MMU keeps it under EH = 1, every other field stays as it was. With EH = 0 `status` is saved in `estatus` and
`pc + 4` in `ea` of the normal set, with EH = 1 nothing is; no other general register changes in any set (R450 to R453). -/
def Obligations.EntryStatusAndSaves : Prop :=
  ∀ (s : State) (x : Exc),
    let t := s.take x
    let old := s.status
    (s.StatusImplemented →
      stPie t.status = false ∧ stU t.status = false ∧ stCrs t.status = 0#6 ∧ stEh t.status = s.cfg.hasEh
      ∧ stPrs t.status = (if s.cfg.mmu = false ∨ stEh old = false then stCrs old else stPrs old)
      ∧ stRsie t.status = stRsie old ∧ stNmi t.status = stNmi old ∧ stIl t.status = stIl old ∧ stIh t.status = stIh old
      ∧ field t.status 24 8 = 0#8)
    ∧ (stEh old = false → t.estatus = old ∧ OneGpr s t 0 29#5 (s.pc + 4#32))
    ∧ (stEh old = true → t.estatus = s.estatus ∧ t.gpr = s.gpr ∧ t.shadow = s.shadow ∧ SameRfEcc s t)

/-- Where an exception goes and what it reports: the fast TLB miss vector on a TLB miss with EH = 0, else the general one;
CAUSE, and ECCFTL on ECC exceptions alone; `badaddr` the data or destination address, as wide as R60 says, unchanged for
the other exceptions (R432, R450, R457; log 50 for the fetch-side rows). -/
def Obligations.EntryVectorAndCause : Prop :=
  ∀ (s : State) (x : Exc),
    let t := s.take x
    let c := s.cfg
    let ecc := 18 ≤ x.code.toNat
    (t.pc = if x.isTlbMiss = true ∧ stEh s.status = false then vectorOf c c.fastTlbMissAddr
      else vectorOf c c.exceptionAddr)
    ∧ (c.isF = false → t.exception = s.exception ∧ t.badaddr = s.badaddr)
    ∧ (c.isF = true →
      field t.exception 2 5 = x.code
      ∧ bit t.exception 31 = (if ecc then decide (x.code = 20#5) else bit s.exception 31)
      ∧ (∀ n, n < 31 → n < 2 ∨ 6 < n → bit t.exception n = bit s.exception n)
      ∧ (∀ a, x.dataAddr = some a → t.badaddr =
          if c.mmu then a else if c.mpu then BitVec.ofNat 32 (a.toNat % (if c.bypass31 then 2 ^ 31 else 2 ^ 32))
          else BitVec.ofNat 32 (a.toNat % 2 ^ c.daddrWidth))
      ∧ (∀ a, x = .misalignedDest a → t.badaddr =
          if c.mmu || c.mpu then a else BitVec.ofNat 32 (a.toNat % 2 ^ c.iaddrWidth))
      ∧ (x.dataAddr = none → (∀ a, x ≠ .misalignedDest a) → t.badaddr = s.badaddr))

/-- The MMU bookkeeping of an exception: `pteaddr.VPN` on a fast TLB miss or a permission violation with EH = 0; PERM and
BAD with EH = 0; DBL and D always; WE set by a permission violation and by a fast TLB miss; nothing without an MMU (R454). That
D is 1 for the ECC exceptions of the data side (causes 18 and 21) is R492's own inference, against the closed list of R454; the
bit positions of the fields of `pteaddr` and `tlbmisc` that the tables do not print are log 49. -/
def Obligations.EntryMmuFields : Prop :=
  ∀ (s : State) (x : Exc),
    let t := s.take x
    let eh := stEh s.status
    let data := x.dataAddr.isSome && x.code != 17#5
    (s.cfg.mmu = false → t.pteaddr = s.pteaddr ∧ t.tlbmisc = s.tlbmisc)
    ∧ (s.cfg.mmu = true →
      t.pteaddr = (if eh = false ∧ (x.isTlbMiss || x.isPerm) = true then
          s.pteaddr.extractLsb' 22 10 ++ (x.faultAddr s.pc).extractLsb' 12 20 ++ s.pteaddr.extractLsb' 0 2
        else s.pteaddr)
      ∧ bit t.tlbmisc 0 = data
      ∧ bit t.tlbmisc 1 = (if eh then bit s.tlbmisc 1 else x.isPerm)
      ∧ bit t.tlbmisc 2 = (if eh then bit s.tlbmisc 2 else x.isBad)
      ∧ bit t.tlbmisc 3 = (x.isTlbMiss && eh)
      ∧ bit t.tlbmisc 18 = (bit s.tlbmisc 18 || x.isPerm || (x.isTlbMiss && !eh))
      ∧ ∀ n, n < 32 → 3 < n → n ≠ 18 → bit t.tlbmisc n = bit s.tlbmisc n)

/-- What no exception changes: memory, the caches, the TLB, the MPU, `bstatus`, `ienable`, `config` and every input; the
ECC signals change only by EEH, on an ECC exception with EH = 1; the pipeline is flushed (R450, R431, R496, 20_memory.md
R145). -/
def Obligations.EntryFrame : Prop :=
  ∀ (s : State) (x : Exc),
    let t := s.take x
    t = { s with
      pc := t.pc, status := t.status, estatus := t.estatus, gpr := t.gpr, rfEcc := t.rfEcc, eccinj := t.eccinj,
      draws := t.draws, pteaddr := t.pteaddr, tlbmisc := t.tlbmisc, exception := t.exception, badaddr := t.badaddr,
      eccBus := t.eccBus, prefetched := [], eccinjOld := 0#32 }
    ∧ (s.cfg.ecc = false → SameRfEcc s t)
    ∧ t.eccBus = if 18 ≤ x.code.toNat ∧ stEh s.status = true then s.eccBus ||| 1#30 else s.eccBus

/-- The worked entries (a) to (d) of R459; in (d) `estatus` stays what it was before the interrupt. R459 gives the fields of
`tlbmisc` in (b) and (c); that WE is bit 18 in the words 0x00040001 and 0x00040009 is the layout of 10_state.md R51, where the place
of WE is the family's (PRESUMED, log 49). The zeros that the states start from, the other bits of `tlbmisc`, `exception` in (d) and
`r2` in (b) among them, are the model's after reset (logs 2 and 4). -/
def Obligations.WorkedEntries : Prop :=
  (∃ t, exec (.trap 0#5) { State.reset with status := 0x00800001#32, pc := 0x1000#32 } = .next t
    ∧ t.estatus = 0x00800001#32 ∧ t.getGpr 0 29#5 = 0x1004#32 ∧ t.status = 0x00800000#32 ∧ t.exception = 0x0000000C#32
    ∧ t.pc = 0x20#32)
  ∧ (∃ b c, exec (.ldw 2#5 3#5 0#16)
      (State.setGpr { State.resetOf { Config.default with hasMmu := true } with
        status := 0x00800003#32, pc := 0x2000#32 } 0 3#5 0x10004008#32) = .next b
    ∧ b.estatus = 0x00800003#32 ∧ b.getGpr 0 29#5 = 0x2004#32 ∧ b.status = 0x00800004#32
    ∧ field b.pteaddr 2 20 = 0x10004#20 ∧ b.tlbmisc = 0x00040001#32 ∧ b.exception = 0x00000030#32
    ∧ b.badaddr = 0x10004008#32 ∧ b.pc = 0xC0000100#32 ∧ b.getGpr 0 2#5 = 0#32
    ∧ exec (.ldw 2#5 3#5 0#16) (State.setGpr { b with pc := 0xC0000108#32 } 0 3#5 0x80400010#32) = .next c
    ∧ c.estatus = 0x00800003#32 ∧ c.getGpr 0 29#5 = 0x2004#32 ∧ c.pteaddr = b.pteaddr ∧ c.tlbmisc = 0x00040009#32
    ∧ c.exception = 0x00000030#32 ∧ c.badaddr = 0x80400010#32 ∧ c.status = 0x00800004#32 ∧ c.pc = 0xC0000020#32)
  ∧ (∀ estatus : Word, ∃ t, step { State.resetOf { Config.default with hasEic := true, numShadow := 2 } with
        status := 0x00800001#32, pc := 0x3000#32, estatus := estatus,
        eic := { rha := 0x8000#32, rrs := 2#6, ril := 5#6, rnmi := false } } = .next t
    ∧ t.getGpr 2 30#5 = 0x80800001#32 ∧ t.getGpr 2 29#5 = 0x3004#32 ∧ t.status = 0x00000858#32 ∧ t.estatus = estatus
    ∧ t.exception = 0#32 ∧ t.pc = 0x8000#32)

/-- `break`: the word; whatever imm5 is, `status` in `bstatus` and `pc + 4` in `ba` of the normal set whether EH was 0 or 1,
then PIE, U and CRS 0, EH 1 where implemented, PRS the old CRS, and the break vector; nothing else but the pipeline, which is
flushed, and the model's own `debugMode` (log 15) (46_other_control.md R394, R460, 20_memory.md R145). -/
def Obligations.BreakResult : Prop :=
  ∀ imm5 : BitVec 5, Coded (wordR 0#5 0#5 30#5 0x34#6 imm5) (.brk imm5) ∧
    ∀ s : State, s.StatusImplemented → ∃ t, exec (.brk imm5) s = .next t
      ∧ t = { s with pc := vectorOf s.cfg s.cfg.breakAddr, status := t.status, bstatus := s.status, gpr := t.gpr,
                     rfEcc := t.rfEcc, eccinj := t.eccinj, draws := t.draws, debugMode := t.debugMode,
                     prefetched := [], eccinjOld := 0#32 }
      ∧ OneGpr s t 0 30#5 (s.pc + 4#32) ∧ (s.cfg.ecc = false → SameRfEcc s t)
      ∧ stPie t.status = false ∧ stU t.status = false ∧ stCrs t.status = 0#6 ∧ stEh t.status = s.cfg.hasEh
      ∧ stPrs t.status = stCrs s.status ∧ stRsie t.status = stRsie s.status ∧ stNmi t.status = stNmi s.status
      ∧ stIl t.status = stIl s.status ∧ stIh t.status = stIh s.status

/-- `eret` and `bret` in supervisor mode: the words; `status` takes the implemented fields of `estatus`, of `sstatus` in a
shadow set, or of `bstatus`, NMI only where it is still set, and `pc` the address in `ea` of the current set or in `ba` of
the normal one, and the pipeline is flushed; a misaligned address raises cause 7 before `status` changes (R470, R471, R472,
20_memory.md R145). That the C field of the word of `eret` is 0 is general knowledge, not the source's (30_encoding.md R210; PRESUMED,
log 49). The model's choices: the NMI of `bret` (D26, log 48), the stop at a misaligned address where the check is off
(U6, log 23), and that `bret` ends the pause of the debug module (log 15). -/
def Obligations.ReturnResults : Prop :=
  Coded (wordR 29#5 30#5 0#5 0x01#6 0#5) .eret ∧ Coded (wordR 30#5 0#5 30#5 0x09#6 0#5) .bret ∧
  ∀ s : State, stU s.status = false →
    let returns (i : Instr) (target saved : Word) (debug : Bool) :=
      if target.toNat % 4 = 0 then
        ∃ t, exec i s = .next t
          ∧ t = { s with pc := target, status := t.status, debugMode := debug, prefetched := [], eccinjOld := 0#32 }
          ∧ StatusFields s.cfg saved t.status ∧ stCrs t.status = implementedSet s.cfg (stCrs saved)
          ∧ stNmi t.status = (s.cfg.eic && stNmi s.status && stNmi saved)
      else if s.cfg.misalignedChecked then Raises i s (.misalignedDest target) 7#5
      else exec i s = .fault .misalignedTransfer
    (s.crs = 0 → returns .eret (s.getGpr 0 29#5) s.estatus s.debugMode)
    ∧ (s.crs ≠ 0 → returns .eret (s.getGpr s.crs 29#5) (s.getGpr s.crs 30#5) s.debugMode)
    ∧ returns .bret (s.getGpr 0 30#5) s.bstatus false

/-! ## Interrupts (60_exceptions.md R442 to R456) -/

/-- Without an EIC, where no earlier event is pending, an interrupt is taken exactly when PIE is 1 and an asserted input is
enabled: cause 2, `pc + 4` saved, the general vector, with an MMU D, DBL, PERM and BAD cleared, IH, IL and NMI kept; else
the instruction runs (R442, R456). That it is taken at the first boundary is the model's choice (D24, log 37). -/
def Obligations.InternalInterrupts : Prop :=
  ∀ s : State, s.Unbroken → s.cfg.eic = false → s.StatusImplemented →
    let s0 := { s with eccBus := 0#30 }
    let requested := stPie s.status = true ∧ ∃ n, n < 32 ∧ bit s.irq n = true ∧ bit s.ienable n = true
    (requested → ∃ t, step s = .next t ∧ t = s0.take .internalInterrupt
      ∧ t.pc = vectorOf s.cfg s.cfg.exceptionAddr ∧ stPie t.status = false
      ∧ (s.cfg.isF = true → field t.exception 2 5 = 2#5)
      ∧ (stEh s.status = false → t.estatus = s.status ∧ OneGpr s t 0 29#5 (s.pc + 4#32))
      ∧ (s.cfg.mmu = true → bit t.tlbmisc 0 = false ∧ bit t.tlbmisc 3 = false
        ∧ (stEh s.status = false → bit t.tlbmisc 1 = false ∧ bit t.tlbmisc 2 = false))
      ∧ stIh t.status = stIh s.status ∧ stIl t.status = stIl s.status ∧ stNmi t.status = stNmi s.status
      ∧ t.irq = s.irq ∧ t.ienable = s.ienable)
    ∧ (¬ requested → step s = fetchAndRun s0)

/-- With an EIC, where no earlier event is pending, the request is taken exactly under the conditions of R445, for an
implemented register set; `status` and the registers are as R455 says; a request for an unimplemented set is outside the
model (U24); without a request the instruction runs. PIE after a nonmaskable interrupt follows D23, RIL = 0 follows D25,
and the first boundary D24 (logs 10, 37, 48); that an injection which `eccinj.RF` asks for is in `sstatus`, the first register that is
written, is log 44. -/
def Obligations.ExternalInterrupts : Prop :=
  ∀ s : State, s.Unbroken → s.cfg.eic = true → s.StatusImplemented → s.shadow.length = s.cfg.shadowSets →
    let q := s.eic
    let eh := stEh s.status
    (s.ExternalTaken → s.cfg.shadowSets < q.rrs.toNat → step s = .refused .unimplementedSetRequest)
    ∧ (s.ExternalTaken → q.rrs.toNat ≤ s.cfg.shadowSets → ∃ t, step s = .next t
      ∧ t = { s with pc := q.rha, status := t.status, estatus := t.estatus, gpr := t.gpr, shadow := t.shadow,
                     rfEcc := t.rfEcc, eccinj := t.eccinj, draws := t.draws, eccBus := 0#30, prefetched := [],
                     eccinjOld := 0#32 }
      ∧ (s.cfg.ecc = false → SameRfEcc s t)
      ∧ stCrs t.status = q.rrs ∧ stIl t.status = q.ril ∧ stNmi t.status = q.rnmi ∧ stIh t.status = true
      ∧ stRsie t.status = !s.cfg.hasRsie ∧ stU t.status = false ∧ stEh t.status = s.cfg.hasEh
      ∧ stPie t.status = (stPie s.status && !q.rnmi && bit s.config 1)
      ∧ stPrs t.status = (if eh = false ∨ s.cfg.mmu = false then stCrs s.status else stPrs s.status)
      ∧ (eh = true → t.estatus = s.estatus ∧ ∀ set j, t.getGpr set j = s.getGpr set j)
      ∧ (eh = false → q.rrs = 0#6 → t.estatus = s.status ∧ OneGpr s t 0 29#5 (s.pc + 4#32))
      ∧ (eh = false → q.rrs ≠ 0#6 → t.estatus = s.estatus
        ∧ t.getGpr q.rrs.toNat 29#5 = s.pc + 4#32
        ∧ HoldsWritten s (BitVec.ofBool (q.rrs != stCrs s.status) ++ s.status.extractLsb' 0 31)
            (t.getGpr q.rrs.toNat 30#5) (t.gprMark q.rrs.toNat 30#5)
        ∧ ∀ set j, ¬ (set = q.rrs.toNat ∧ (j = 29#5 ∨ j = 30#5)) → t.getGpr set j = s.getGpr set j))
    ∧ (¬ s.ExternalTaken → step s = fetchAndRun { s with eccBus := 0#30 })

/-- NMI mode is entered only by taking a nonmaskable interrupt: no instruction, exception, break or reset sets
`status.NMI` (R446, R471, 10_state.md R40). That `bret` cannot is D26 (log 48), and that a request with RIL = 0 is none, a
nonmaskable one too, is D25 (log 10). -/
def Obligations.NmiModeEnteredOnlyByNmi : Prop :=
  ∀ s t : State, step s = .next t → stNmi s.status = false → stNmi t.status = true →
    s.cfg.eic = true ∧ s.eic.rnmi = true ∧ s.eic.ril ≠ 0#6 ∧ t.pc = s.eic.rha

/-! ## Reset (70_reset_and_hazards.md) -/

/-- `status` is 0x00800000 after reset: supervisor mode, interrupts disabled, the normal register set, EH 0; in the state
`State.resetOf c` of every configuration and after every step that the `reset` input makes (10_state.md R41). -/
def Obligations.ResetStatus : Prop :=
  let fields (w : Word) := w = 0x00800000#32 ∧ stRsie w = true ∧ stU w = false ∧ stPie w = false ∧ stCrs w = 0#6
    ∧ stEh w = false ∧ stNmi w = false ∧ stPrs w = 0#6 ∧ stIl w = 0#6 ∧ stIh w = false
  (∀ c : Config, fields (State.resetOf c).status)
  ∧ ∀ s t : State, s.resetPin = true → step s = .next t → fields t.status

/-- The `reset` input at any boundary, and `cpu_resetrequest` where the processor is not paused: `status`, the reset vector, PE and
ECCEN 0, the instruction cache line of the vector invalid; `cpu_resetrequest` leaves memory and the ECC state of tightly-coupled memory
(R520, R522). The model's: no old instruction word is kept, in the pipeline or the instruction cache, of which R520 and R522 say nothing
but of the one line (logs 39 and 42); every input of the environment stays as it was (log 11), but the latch of the EIC request, which is
emptied (D25, log 10); what an MMU makes of the vector is log 47. -/
def Obligations.ResetEntry : Prop :=
  ∀ s : State,
    let v := vectorOf s.cfg s.cfg.resetAddr
    let resets (t : State) := t.status = 0x00800000#32 ∧ t.pc = v ∧ bit t.config 0 = false ∧ bit t.config 2 = false
      ∧ (s.cfg.icacheSize ≠ 0 → (t.iline (v.toNat / 32 % (s.cfg.icacheSize / 32))).valid = false)
      ∧ t.getGpr 0 0#5 = 0#32 ∧ t.prefetched = [] ∧ t.readAhead = [] ∧ t.cfg = s.cfg
      ∧ t.irq = s.irq ∧ t.resetPin = s.resetPin ∧ t.cpuResetRequest = s.cpuResetRequest ∧ t.resetReq = s.resetReq
      ∧ t.hwBreak = s.hwBreak ∧ t.debugReq = s.debugReq ∧ t.eic = { s.eic with ril := 0#6, rnmi := false }
    (s.resetPin = true → ∃ t, step s = .next t ∧ resets t)
    ∧ (s.resetPin = false → (s.cfg.hasEh && s.cfg.hasU && stEh s.status && stU s.status) = false →
      s.breakPending = false → s.cfg.hasCpuResetRequest = true → s.cpuResetRequest = true → s.debugMode = false →
      ∃ t, step s = .next t ∧ resets t ∧ t.mem = s.mem ∧ t.tcmEcc = s.tcmEcc)

/-! ## Control registers (10_state.md, 46_other_control.md R395, R396) -/

/-- `cpuid` is the parameter CPUID at reset and ever after: in the state `State.resetOf c` of every configuration, and no step
changes it; `wrctl cpuid` has no effect but the one that every `wrctl` has, on `pc` and on the pipeline (10_state.md R46). -/
def Obligations.CpuidConstant : Prop :=
  (∀ c : Config, (State.resetOf c).readCtl 5#5 = c.cpuId)
  ∧ (∀ s t : State, step s = .next t → t.readCtl 5#5 = s.readCtl 5#5)
  ∧ ∀ (s : State) (a : RegIdx), stU s.status = false →
    exec (.wrctl 5#5 a) s = .next { s with pc := s.pc + 4#32, prefetched := [], eccinjOld := 0#32 }

/-- `rdctl` in supervisor mode: the word, and what each of the 32 numbers reads, 0 where the register is absent or reserved
(R29 to R68; R47 and D2 for the reserved ones, log 46; a destination of register 0 by R25, log 38). Where an injection of the
data side was done since the pipeline was last flushed, each field of `eccinj` reads as it is now or as it was before, and, once
read as it is now, stays so (70_reset_and_hazards.md R543, log 44). -/
def Obligations.RdctlResults : Prop :=
  ∀ (c : RegIdx) (n : BitVec 5), Coded (wordR 0#5 0#5 c 0x26#6 n) (.rdctl c n) ∧
    ∀ s : State, s.Ready → s.SpecialImplemented → stU s.status = false →
      let two (w : Word) (k : Nat) : BitVec 2 := w.extractLsb' (2 * k) 2
      if n = 11#5 ∧ s.cfg.ecc = true ∧ s.eccinjOld ≠ 0#32 then
        ∃ t v, exec (.rdctl c n) s = .next t
          ∧ RegResult { s with eccinjOld := t.eccinjOld, draws := s.draws + 1 } t c v (s.pc + 4#32)
          ∧ v.extractLsb' 22 10 = 0#10 ∧ t.eccinjOld.extractLsb' 22 10 = 0#10
          ∧ ∀ k, k < 11 →
            (two v k = two s.eccinj k ∧ two t.eccinjOld k = 0#2)
            ∨ (two v k = two s.eccinj k ||| two s.eccinjOld k ∧ two t.eccinjOld k = two s.eccinjOld k)
      else Yields (.rdctl c n) s c
        (if n = 0#5 then s.status else if n = 1#5 then s.estatus else if n = 2#5 then s.bstatus
        else if n = 3#5 then (if s.cfg.eic then 0#32 else s.ienable)
        else if n = 4#5 then (if s.cfg.eic then 0#32 else s.irq &&& s.ienable)
        else if n = 5#5 then s.cfg.cpuId
        else if n = 7#5 then (if s.cfg.isF then s.exception else 0#32)
        else if n = 8#5 then (if s.cfg.mmu then s.pteaddr else 0#32)
        else if n = 9#5 then (if s.cfg.mmu then s.tlbacc else 0#32)
        else if n = 10#5 then (if s.cfg.mmu then s.tlbmisc else 0#32)
        else if n = 11#5 then (if s.cfg.ecc then s.eccinj else 0#32)
        else if n = 12#5 then (if s.cfg.isF then s.badaddr else 0#32)
        else if n = 13#5 then s.config
        else if n = 14#5 then (if s.cfg.mpu then s.mpubase else 0#32)
        else if n = 15#5 then (if s.cfg.mpu then s.mpuacc else 0#32)
        else 0#32)

/-- `wrctl` in supervisor mode: the word, and the whole effect for every register but `tlbacc`, `tlbmisc`, `mpubase` and
`mpuacc` where they exist: `status` keeps NMI and CRS, `estatus` and `bstatus` take every implemented field, read-only,
absent and reserved registers nothing (R40 to R48, R60, R61, R68; R47 and D2 for the reserved ones, log 46). The pipeline is
flushed, but by a write of `mpubase` or `mpuacc` (20_memory.md R145). -/
def Obligations.WrctlResults : Prop :=
  ∀ (a : RegIdx) (n : BitVec 5), Coded (wordR a 0#5 0#5 0x2E#6 n) (.wrctl n a) ∧
    ∀ s : State, s.StatusImplemented → stU s.status = false →
      let v := s.reg a
      let c := s.cfg
      let done (t : State) := exec (.wrctl n a) s = .next (if n = 14#5 ∨ n = 15#5 then { t with pc := s.pc + 4#32 }
        else { t with pc := s.pc + 4#32, prefetched := [], eccinjOld := 0#32 })
      let whole (w : Word) := StatusFields c v w ∧ stCrs w = implementedSet c (stCrs v) ∧ stNmi w = (c.eic && stNmi v)
      (n = 0#5 → ∃ w, done { s with status := w } ∧ StatusFields c v w ∧ stCrs w = stCrs s.status
        ∧ stNmi w = stNmi s.status)
      ∧ (n = 1#5 → ∃ w, done { s with estatus := w } ∧ whole w)
      ∧ (n = 2#5 → ∃ w, done { s with bstatus := w } ∧ whole w)
      ∧ (n = 3#5 → done { s with ienable := if c.eic then s.ienable else v })
      ∧ (n = 8#5 → done { s with pteaddr := if c.mmu then v.extractLsb' 2 30 ++ 0#2 else s.pteaddr })
      ∧ (n = 11#5 → done { s with eccinj := if c.ecc then 0#10 ++ v.extractLsb' 0 22 else s.eccinj })
      ∧ (n = 13#5 → done { s with config := (0#28 ++ BitVec.ofBool (c.ecc && bit v 3)
          ++ BitVec.ofBool (c.ecc && bit v 2) ++ BitVec.ofBool (c.eic && decide (0 < c.shadowSets) && bit v 1)
          ++ BitVec.ofBool (c.mpu && bit v 0) : Word) })
      ∧ (n = 9#5 ∨ n = 10#5 → c.mmu = false → done s) ∧ (n = 14#5 ∨ n = 15#5 → c.mpu = false → done s)
      ∧ (n ∈ [4#5, 5#5, 6#5, 7#5, 12#5] ∨ 16 ≤ n.toNat → done s)

/-- `wrctl tlbacc` and `wrctl tlbmisc` with an MMU, on a core without ECC: with WE = 1 the entry (line of `pteaddr.VPN`, WAY) is
written and WAY advances modulo the ways, with WE = 0 only the register; RD = 1 loads the tag of VPN, PID and `tlbacc` from the
entry; nothing else changes but the pipeline, which is flushed (21_mmu_mpu.md R160, R161, 20_memory.md R145). A WAY that names no
entry is the model's: a write writes none and WAY advances, a read finds free values (log 52); so is that the bits of PID above
PID_BITS are dropped where software writes them (log 56); line and tag are log 49. -/
def Obligations.TlbWriteAndRead : Prop :=
  ∀ (s : State) (a : RegIdx), stU s.status = false → s.cfg.mmu = true → s.cfg.ecc = false → s.cfg.wf = true →
    s.tlb.length = s.cfg.tlbEntries → s.cfg.tlbWays ≤ s.cfg.tlbEntries →
    let v := s.reg a
    let ways := s.cfg.tlbWays
    let lines := s.cfg.tlbEntries / ways
    let vpn := (s.pteaddr.extractLsb' 2 20).toNat
    let way := (s.tlbmisc.extractLsb' 20 4).toNat
    let acc : Word := 0#7 ++ v.extractLsb' 0 25
    let misc (pid : BitVec 14) : Word :=
      0#8 ++ BitVec.ofNat 4 ((v.extractLsb' 20 4).toNat % 2 ^ Nat.clog 2 ways) ++ 0#1 ++ v.extractLsb' 18 1 ++ pid
        ++ s.tlbmisc.extractLsb' 0 4
    let newWay := (v.extractLsb' 20 4).toNat % 2 ^ Nat.clog 2 ways
    let nextWay : Word := s.tlbmisc.extractLsb' 24 8 ++ BitVec.ofNat 4 ((way + 1) % ways) ++ s.tlbmisc.extractLsb' 0 20
    (bit s.tlbmisc 18 = false →
      exec (.wrctl 9#5 a) s = .next { s.pipelineFlushed with pc := s.pc + 4#32, tlbacc := acc })
    ∧ (bit s.tlbmisc 18 = true → way < ways → ∃ t, exec (.wrctl 9#5 a) s = .next t
      ∧ t = { s.pipelineFlushed with pc := s.pc + 4#32, tlbacc := acc, tlb := t.tlb, tlbmisc := nextWay }
      ∧ ∀ k, t.tlb[k]? =
        if k = vpn % lines * ways + way then
          some { tag := vpn / lines, pid := s.tlbmisc.extractLsb' 4 14, g := bit v 20, pfn := v.extractLsb' 0 20,
                 c := bit v 24, r := bit v 23, w := bit v 22, x := bit v 21, ecc := .none }
        else s.tlb[k]?)
    ∧ (bit s.tlbmisc 18 = true → ways ≤ way →
      exec (.wrctl 9#5 a) s = .next { s.pipelineFlushed with pc := s.pc + 4#32, tlbacc := acc, tlbmisc := nextWay })
    ∧ (bit v 19 = false → exec (.wrctl 10#5 a) s =
        .next { s.pipelineFlushed with
          pc := s.pc + 4#32, tlbmisc := misc (BitVec.ofNat 14 ((v.extractLsb' 4 14).toNat % 2 ^ s.cfg.pidBits)) })
    ∧ (bit v 19 = true → newWay < ways → ∀ e, s.tlb[vpn % lines * ways + newWay]? = some e →
      exec (.wrctl 10#5 a) s = .next { s.pipelineFlushed with
        pc := s.pc + 4#32, tlbmisc := misc e.pid,
        pteaddr := s.pteaddr.extractLsb' 22 10 ++ BitVec.ofNat 20 (e.tag * lines + vpn % lines)
          ++ s.pteaddr.extractLsb' 0 2,
        tlbacc := 0#7 ++ BitVec.ofBool e.c ++ BitVec.ofBool e.r ++ BitVec.ofBool e.w ++ BitVec.ofBool e.x
          ++ BitVec.ofBool e.g ++ e.pfn })
    ∧ (bit v 19 = true → ways ≤ newWay → ∃ t, exec (.wrctl 10#5 a) s = .next t
      ∧ t = { s.pipelineFlushed with pc := s.pc + 4#32, tlbmisc := misc (t.tlbmisc.extractLsb' 4 14),
                                     pteaddr := s.pteaddr.extractLsb' 22 10 ++ t.pteaddr.extractLsb' 2 20
                                       ++ s.pteaddr.extractLsb' 0 2,
                                     tlbacc := 0#7 ++ t.tlbacc.extractLsb' 0 25, draws := s.draws + 1 })

/-- `wrctl mpubase` and `wrctl mpuacc` with an MPU: the implemented bits of the fields; WR writes the region that INDEX and D
name, RD loads it, neither only updates the register, both have no defined behaviour (10_state.md R62 to R67, 21_mmu_mpu.md
R180, R181, U3). The model's: RD and WR read 0 (D5, log 46), and an INDEX that names no region writes none and reads free values
(log 52). The pipeline is not flushed (20_memory.md R145). -/
def Obligations.MpuRegionWriteAndRead : Prop :=
  ∀ (s : State) (a : RegIdx), stU s.status = false → s.cfg.mpu = true → s.cfg.wf = true →
    let v := s.reg a
    let c := s.cfg
    let d := bit s.mpubase 0
    let index := (s.mpubase.extractLsb' 1 5).toNat
    let width (d : Bool) := if d then c.daddrWidth else c.iaddrWidth
    let low (d : Bool) := max 8 (Nat.log2 (if d then c.mpuMinDRegion else c.mpuMinIRegion))
    let accFields (w : Word) := ∀ n, n < 32 → bit w n =
      if n < 2 ∨ n = 7 then false else if n < 5 then bit v n else if n < 7 then d && bit v n
      else bit v n && decide (low d ≤ n) && decide (n < if c.mpuUseLimit then width d + 1 else width d)
    (∃ w, exec (.wrctl 14#5 a) s = .next { s with pc := s.pc + 4#32, mpubase := w }
      ∧ bit w 0 = bit v 0
      ∧ (w.extractLsb' 1 5).toNat = (v.extractLsb' 1 5).toNat
          % 2 ^ Nat.clog 2 (if bit v 0 then c.mpuNumDRegions else c.mpuNumIRegions)
      ∧ bit w 6 = false ∧ bit w 7 = false
      ∧ ∀ n, n < 32 → 7 < n →
        bit w n = (bit v n && decide (low (bit v 0) ≤ n) && decide (n < width (bit v 0))))
    ∧ (bit v 0 = false → bit v 1 = false →
      ∃ w, exec (.wrctl 15#5 a) s = .next { s with pc := s.pc + 4#32, mpuacc := w } ∧ accFields w)
    ∧ (bit v 0 = true → bit v 1 = false → ∃ w,
      let g : MpuRegion := { base := s.mpubase.extractLsb' 8 24, lim := w.extractLsb' 8 24, mt := w.extractLsb' 5 2,
                             perm := w.extractLsb' 2 3 }
      exec (.wrctl 15#5 a) s = .next { s with
        pc := s.pc + 4#32, mpuacc := w,
        iregions := if d then s.iregions else s.iregions.set index g,
        dregions := if d then s.dregions.set index g else s.dregions } ∧ accFields w)
    ∧ (bit v 0 = false → bit v 1 = true → ∀ g, (if d then s.dregions else s.iregions)[index]? = some g →
      exec (.wrctl 15#5 a) s = .next { s with
        pc := s.pc + 4#32, mpubase := g.base ++ s.mpubase.extractLsb' 0 8,
        mpuacc := g.lim ++ 0#1 ++ g.mt ++ g.perm ++ 0#2 })
    ∧ (bit v 0 = false → bit v 1 = true → (if d then s.dregions else s.iregions)[index]? = none →
      ∃ t, exec (.wrctl 15#5 a) s = .next t
        ∧ t = { s with pc := s.pc + 4#32, mpubase := t.mpubase, mpuacc := t.mpuacc, draws := s.draws + 1 })
    ∧ (bit v 0 = true → bit v 1 = true → exec (.wrctl 15#5 a) s = .fault .mpuReadAndWrite)

/-! ## Other control instructions and custom (46_other_control.md, 47_custom_nop.md) -/

/-- `rdprs` and `wrprs` in supervisor mode: the words; a register of the set that PRS names, read with the immediate added
or written, register 0 of a shadow set included, and the pipeline flushed by `wrprs`; an illegal instruction without shadow sets,
which user mode sees as cause 10 or cause 5 as a free choice says (U21, log 33), and which has no defined behaviour where the check
is off (U16, log 29); none either where PRS names no set (U1, log 17) (R411, R412, 20_memory.md R145; the destination register 0
of `rdprs` by R25, log 38). -/
def Obligations.PreviousSetResults : Prop :=
  ∀ (a b c : RegIdx) (imm16 : BitVec 16),
    Coded (wordI a b imm16 0x38#6) (.rdprs b a imm16) ∧ Coded (wordR a 0#5 c 0x14#6 0#5) (.wrprs c a) ∧
    ∀ s : State, s.Ready →
      (stU s.status = true → s.cfg.shadowSets = 0 →
        let either (i : Instr) := exec i s =
          if Config.freeBool s.draws 0 then .next (s.drawn.take .supervisorOnlyInstr)
          else if s.cfg.illegalChecked then .next (s.drawn.take .illegal) else .fault .reservedWord
        either (.rdprs b a imm16) ∧ either (.wrprs c a))
      ∧ (stU s.status = false →
      if s.cfg.shadowSets = 0 then
        if s.cfg.illegalChecked then Raises (.rdprs b a imm16) s .illegal 5#5 ∧ Raises (.wrprs c a) s .illegal 5#5
        else exec (.rdprs b a imm16) s = .fault .reservedWord ∧ exec (.wrprs c a) s = .fault .reservedWord
      else if (stPrs s.status).toNat ≤ s.cfg.shadowSets then
        Yields (.rdprs b a imm16) s b (s.getGpr (stPrs s.status).toNat a + imm16.signExtend 32)
        ∧ ∃ t, exec (.wrprs c a) s = .next t
          ∧ if stPrs s.status = 0#6 ∧ c = 0#5 then t = { s.pipelineFlushed with pc := s.pc + 4#32 }
            else Written s.pipelineFlushed t (stPrs s.status).toNat c (s.reg a) (s.pc + 4#32)
      else
        exec (.rdprs b a imm16) s = .fault .unimplementedRegisterSet
        ∧ exec (.wrprs c a) s = .fault .unimplementedRegisterSet)

/-- `flushp` and `sync`: the words; `flushp` empties the pipeline of what was fetched and not executed, and has no other effect but
`pc + 4`; `sync` has none but `pc + 4`, as each access is complete when its instruction is (R407, R408, logs 39 and 40). That the A
field of the word of `flushp` is 0 is general knowledge, not the source's (30_encoding.md R210; PRESUMED, log 49). -/
def Obligations.FlushpAndSync : Prop :=
  Coded (wordR 0#5 0#5 0#5 0x04#6 0#5) .flushp ∧ Coded (wordR 0#5 0#5 0#5 0x36#6 0#5) .sync ∧
  ∀ s : State, exec .flushp s = .next { s with pc := s.pc + 4#32, prefetched := [], eccinjOld := 0#32 }
    ∧ exec .sync s = .next { s with pc := s.pc + 4#32 }

/-- `custom`: the word; both register values, the three fields, N and the select bits go to the logic; with writerc = 1 its
result goes to rC and nothing else changes, with writerc = 0 no register changes; no control register and no memory either
way (R420; a destination of register 0 by R25 in a shadow set as well, log 38). -/
def Obligations.CustomResult : Prop :=
  ∀ (n : BitVec 8) (readra readrb writerc : Bool) (a b c : RegIdx),
    let i : Instr := .custom n readra readrb writerc c a b
    Coded (wordCustom n readra readrb writerc c a b) i ∧
    ∀ s : State, s.Ready →
      let q : CustomCall := { n := n, valA := s.reg a, valB := s.reg b, a := a, b := b, c := c, readra := readra,
                              readrb := readrb, writerc := writerc, logic := s.customState }
      let s1 := { s with customState := Config.customNext q }
      (writerc = true → ∃ t, exec i s = .next t ∧ RegResult s1 t c (Config.customResult q) (s.pc + 4#32))
      ∧ (writerc = false → exec i s = .next { s1 with pc := s.pc + 4#32 })

/-! ## ECC (60_exceptions.md R490 to R496) -/

/-- The register file of a core with ECC, for a register that is implemented and is not `zero` of the normal set. With ECCEN = 0
an error is ignored: the register reads as its RAM holds it, and nothing changes. With ECCEN = 1 a 1-bit error in a source register
is corrected and signalled, the instruction going on; a 2-bit error raises cause 20 with ECCFTL 1 where ECCEXE is 1; where it is 0
the error is signalled and the value read is any one (U25, log 35). A write with `eccinj.RF` 1 or 2 leaves the 1-bit or 2-bit error
in the bits of the value and returns the field to 0 (R490, R491, R495, R496, 10_state.md R68; the field 3 is log 44). An instruction
reads its sources in turn, and one that stops ends the step, before any exception of the fetch that ranks below (R441). Where none
stops, a supervisor-only instruction in user mode and an instruction that the core lacks take cause 10 and cause 4 with no operand read:
nothing is corrected and nothing signalled (46_other_control.md R391, 41_arith_logic.md R293). That with ECCEN = 0 an error is not
signalled either is the model's (log 35), as are the one mark of a register for both operand ports, the sources of `eret`, `bret` and
`custom` (log 44) and those of a word whose fetch has such an exception (log 55). -/
def Obligations.EccRegisterFile : Prop :=
  ∀ (s : State) (set : Nat) (r : RegIdx), s.cfg.ecc = true → s.Canonical → set ≤ s.shadow.length →
    ¬ (set = 0 ∧ r = 0#5) →
    let eccen := bit s.config 2
    let eccexe := bit s.config 3
    let onlyThis (t : State) := ∀ (set' : Nat) (j : RegIdx), ¬ (set' = set ∧ j = r) →
      t.getGpr set' j = s.getGpr set' j ∧ (j.toNat < 32 → t.gprMark set' j = s.gprMark set' j)
    (s.gprMark set r = .none ∨ eccen = false → readSource (set, r) s = .ok () s)
    ∧ (∀ k, s.gprMark set r = .single k → eccen = true → ∃ t, readSource (set, r) s = .ok () t
      ∧ t = { s with gpr := t.gpr, shadow := t.shadow, rfEcc := t.rfEcc, eccBus := s.eccBus ||| 2#30 }
      ∧ t.getGpr set r = (if k < 32 then s.getGpr set r ^^^ BitVec.twoPow 32 k else s.getGpr set r)
      ∧ t.gprMark set r = .none ∧ onlyThis t)
    ∧ (s.gprMark set r = .double → eccen = true → eccexe = true →
      readSource (set, r) s = .stop (.next (State.take { s with eccBus := s.eccBus ||| 4#30 } .eccRegisterFile))
      ∧ field (s.take .eccRegisterFile).exception 2 5 = 20#5 ∧ bit (s.take .eccRegisterFile).exception 31 = true)
    ∧ (s.gprMark set r = .double → eccen = true → eccexe = false → ∃ t, readSource (set, r) s = .ok () t
      ∧ t = { s with gpr := t.gpr, shadow := t.shadow, draws := s.draws + 1, eccBus := s.eccBus ||| 4#30 }
      ∧ t.getGpr set r = Config.freeWord s.draws ∧ onlyThis t)
    ∧ (∀ i : Instr, s.gprMark set r = .double → eccen = true → eccexe = true → (set, r) ∈ sources i s →
      (∀ q ∈ sources i s, q ≠ (set, r) → s.gprMark q.1 q.2 = .none) →
      readSources (sources i s) s = .stop (.next (State.take { s with eccBus := s.eccBus ||| 4#30 } .eccRegisterFile)))
    ∧ (∀ v, OneGpr s (s.setGpr set r v) set r v ∧ field (s.setGpr set r v).eccinj 0 2 = 0#2)
    ∧ ∀ (u : State) (f : Fetched) (s1 : State) (i : Instr) (rest : List Byte), u.Quiet → u.SetImplemented →
      fetch { u with eccBus := 0#30 } = .ok f s1 → decode (bytesOfWord f.word) = .ok (i, rest) →
      (∀ x, readSources (sources i s1) s1 = .stop x → step u = x)
      ∧ ∀ s2, readSources (sources i s1) s1 = .ok () s2 → f.late = none →
        (canonical i f.word || s1.cfg.nonCanonicalRuns) = true → ∀ (a b c : RegIdx) (imm16 : BitVec 16) (n : BitVec 5),
        let c1 := s1.cfg
        (stU s1.status = true →
          i ∈ [.initd a imm16, .initi a, .eret, .bret, .rdctl c n, .wrctl n a]
            ∨ (c1.shadowSets ≠ 0 ∧ i ∈ [.rdprs b a imm16, .wrprs c a]) →
          step u = .next (s1.take .supervisorOnlyInstr))
        ∧ ((i ∈ [.mul c a b, .muli b a imm16] ∧ ¬ (c1.isF = true ∧ (c1.hwMul = .mul ∨ c1.hwMul = .mulx)))
            ∨ (i ∈ [.mulxss c a b, .mulxsu c a b, .mulxuu c a b] ∧ ¬ (c1.isF = true ∧ c1.hwMul = .mulx))
            ∨ (i ∈ [.div c a b, .divu c a b] ∧ ¬ (c1.isF = true ∧ c1.hwDiv = true))
            ∨ (i = .initda a imm16 ∧ ¬ (c1.isF = true ∧ c1.hwInitda = true)) →
          step u = .next (s1.take .unimplemented))

/-- The TLB of a core with ECC, with ECCEN = 1, at an address of the mapped partitions. A 2-bit error in the line raises cause 18 where
ECCEXE is 1, on a fetch before anything else; without one, 1-bit errors of the line are corrected and signalled, and the lookup answers
as the corrected entries say; where ECCEXE is 0 a 2-bit error is signalled and its entry matches or not and delivers any frame,
cacheability and permission (U25, log 35), here beside entries that do not match. A read of a corrupted entry by `wrctl tlbmisc` raises
nothing: it sets `tlbmisc.EE` and its signal. A TLB write with `eccinj.TLB` 1 or 2 leaves the error in the tag of the entry and returns
the field to 0 (R491, R494 to R496, 10_state.md R68); that it does not where WAY names no entry is the model's (log 52), as are the tag
of a corrupted entry that software reads (log 44) and the line and tag of a VPN (log 49). That a data access ends in what stops its
translation is in `TlbTranslation`, the step in what stops its fetch in `StepRunsDecoded`. -/
def Obligations.EccTlb : Prop :=
  ∀ s : State, s.cfg.mmu = true → s.cfg.ecc = true → bit s.config 2 = true → s.cfg.wf = true →
    s.tlb.length = s.cfg.tlbEntries → s.cfg.tlbWays ≤ s.cfg.tlbEntries →
    let ways := s.cfg.tlbWays
    let lines := s.cfg.tlbEntries / ways
    let tagWidth := 20 - Nat.log2 lines
    lines ≤ 2 ^ 18 →
    (∀ (va : Word) (kind : AccessKind), va.toNat < 0xC0000000 →
      let vpn := va.extractLsb' 12 20
      let has (m : EccMark) := ∃ e ∈ s.tlbWaysOf vpn, e.ecc = m
      (has .double → bit s.config 3 = true → ∃ t : State,
        t = { s with tlb := t.tlb, draws := s.draws + 1, eccBus := t.eccBus } ∧ t.eccBus.getLsbD 20 = true
        ∧ translateData va kind s = .stop (.next (t.take (.eccTlbData va)))
        ∧ mmuFetch va s = .stop (.next (t.take .eccTlbInstr))
        ∧ field (t.take (.eccTlbData va)).exception 2 5 = 18#5 ∧ field (t.take .eccTlbInstr).exception 2 5 = 18#5)
      ∧ (∀ (way : Nat) (e : TlbEntry), (s.tlbWaysOf vpn)[way]? = some e → e.ecc = .double → bit s.config 3 = false →
        (∀ (n : Nat) (f : TlbEntry), n ≠ way → (s.tlbWaysOf vpn)[n]? = some f → f.ecc = .none ∧ f.tag ≠ vpn.toNat / lines) →
        let t : State := { s with draws := s.draws + 1, eccBus := s.eccBus ||| 0x100000#30 }
        let x := Config.freeWordAt s.draws way
        let p := (x.extractLsb' 0 20).toNat * 4096 + va.toNat % 4096
        (Config.freeBool s.draws way = false → translateData va kind s = .stop (.next (t.take (.tlbMissData va)))
          ∧ ((stU s.status && bit va 31) = false → mmuFetch va s = .stop (.next (t.take .tlbMissInstr))))
        ∧ (Config.freeBool s.draws way = true →
          translateData va kind s =
            (if kind = .load ∧ bit x 23 = false then .stop (.next (t.take (.tlbPermRead va)))
            else if kind = .store ∧ bit x 22 = false then .stop (.next (t.take (.tlbPermWrite va)))
            else .ok (p, bit x 24) t)
          ∧ ((stU s.status && bit va 31) = false →
            mmuFetch va s = if bit x 21 then .ok p t else .stop (.next (t.take .tlbPermExecute)))))
      ∧ (∀ k, has (.single k) → ¬ has .double → ∃ t : State,
        t = { s with tlb := t.tlb, draws := s.draws + 1, eccBus := s.eccBus ||| 0x80000#30 }
        ∧ (∀ n : Nat, n / ways ≠ vpn.toNat % lines → t.tlb[n]? = s.tlb[n]?)
        ∧ (∀ (n : Nat) (e : TlbEntry), n / ways = vpn.toNat % lines → s.tlb[n]? = some e →
          (e.ecc = .none → t.tlb[n]? = some e)
          ∧ (∀ b, e.ecc = .single b → (t.tlb[n]?).any (fun f => f.ecc == .none) = true)
          ∧ (∀ b, e.ecc = .single b → b < tagWidth → t.tlb[n]? = some { e with tag := e.tag ^^^ 2 ^ b, ecc := .none }))
        ∧ (t.tlbFinds vpn = [] → translateData va kind s = .stop (.next (t.take (.tlbMissData va))))
        ∧ ∀ e, t.tlbFinds vpn = [e] →
          (kind = .load → e.r = true → translateData va kind s = .ok (e.pfn.toNat * 4096 + va.toNat % 4096, e.c) t)
          ∧ (kind = .store → e.w = true → translateData va kind s = .ok (e.pfn.toNat * 4096 + va.toNat % 4096, e.c) t)
          ∧ ((stU s.status && bit va 31) = false → e.x = true →
            mmuFetch va s = .ok (e.pfn.toNat * 4096 + va.toNat % 4096) t)))
    ∧ ∀ a : RegIdx, stU s.status = false →
      let v := s.reg a
      let vpn := (s.pteaddr.extractLsb' 2 20).toNat
      let index (way : Nat) := vpn % lines * ways + way
      let way := (s.tlbmisc.extractLsb' 20 4).toNat
      let newWay := (v.extractLsb' 20 4).toNat % 2 ^ Nat.clog 2 ways
      (bit v 19 = true → newWay < ways → ∀ e, s.tlb[index newWay]? = some e → e.ecc ≠ .none →
        ∃ t, exec (.wrctl 10#5 a) s = .next t ∧ bit t.tlbmisc 24 = true ∧ t.eccBus = s.eccBus ||| 0x200000#30
          ∧ t = { s.pipelineFlushed with pc := s.pc + 4#32, tlbmisc := t.tlbmisc, tlbacc := t.tlbacc,
                                         pteaddr := t.pteaddr, eccBus := t.eccBus, draws := t.draws })
      ∧ (bit v 19 = true → newWay < ways → ∀ e, s.tlb[index newWay]? = some e → e.ecc = .none →
        ∃ t, exec (.wrctl 10#5 a) s = .next t ∧ bit t.tlbmisc 24 = bit v 24 ∧ t.eccBus = s.eccBus)
      ∧ (bit s.tlbmisc 18 = true → way < ways → ∃ t, exec (.wrctl 9#5 a) s = .next t ∧ field t.eccinj 10 2 = 0#2
        ∧ ∃ e, t.tlb[index way]? = some e
          ∧ (field s.eccinj 10 2 = 0#2 → e.ecc = .none ∧ e.tag = vpn / lines)
          ∧ (field s.eccinj 10 2 = 1#2 → ∃ b, b < tagWidth ∧ e.ecc = .single b ∧ e.tag = vpn / lines ^^^ 2 ^ b)
          ∧ (field s.eccinj 10 2 = 2#2 → ∃ b d, b < tagWidth ∧ d < tagWidth ∧ b ≠ d ∧ e.ecc = .double
            ∧ e.tag = vpn / lines ^^^ 2 ^ b ^^^ 2 ^ d))
      ∧ (bit s.tlbmisc 18 = true → ways ≤ way →
        ∃ t, exec (.wrctl 9#5 a) s = .next t ∧ t.eccinj = s.eccinj ∧ t.tlb = s.tlb)

/-- The data cache of a core with ECC, on an access or a cache instruction. With ECCEN = 0 a line reads as its RAM holds it. With
ECCEN = 1, where the indexed line is valid: a 1-bit error of the tag is corrected and signalled, and the access is that of the
corrected line; a 2-bit error of the tag raises cause 21 where ECCEXE is 1, for `flushda` and `initda`
too, whose pages name no such exception (log 44). With a good tag that holds the address: a 1-bit error of a dirty line's data is
corrected, a 2-bit error raises cause 21 where ECCEXE is 1 and gives free bytes where it is 0 (U25, log 35), an error in a clean line
makes the line read again from memory; all are signalled. A load that fills the line gets memory's bytes, and the errors that
`eccinj.DCTAG` and `eccinj.DCDAT` ask for wait in the line for the next one (that those of the tag are in its address bits is log 44).
A line written back with a 2-bit error leaves the imprecise cause 22 to come and 32 open bytes, with a 1-bit error it is corrected, and
so is the error that `eccinj.DCWB` puts in its first word, which with ECCEN = 0 is written to memory; a tag with a 2-bit error leaves
cause 22 and the signal DCTAG_UE where `flushd` writes its line back (logs 44 and 45) (R490, R491, R493, R495, R496, 20_memory.md
R125). What a store leaves, and a miss that replaces a valid line, are in `EccDataCacheStores`. That a 1-bit error of
a clean line refetches it, and one mark for a line's 32 bytes, are log 44; that with ECCEN = 0 nothing is signalled is log 35; when
the waiting error is reported is log 45, and what it does is in `EventOrder`. An access that the cache serves is the cache's (R110), and
that the instruction ends in what stops it is in `TlbTranslation`. -/
def Obligations.EccDataCache : Prop :=
  ∀ (s : State) (va : Word) (a n : Nat) (bs : List Byte), s.cfg.ecc = true → s.cfg.wf = true →
    s.mem.wf = true → s.LinesWhole → s.dcache.length = s.cfg.dcacheSize / 32 → s.cfg.dcacheSize ≠ 0 → a % 32 + n ≤ 32 →
    let i := s.dindex va
    let l := s.dline i
    let eccen := bit s.config 2
    let eccexe := bit s.config 3
    let signalled (s : State) (n : Nat) : State := { s with eccBus := s.eccBus ||| BitVec.ofNat 30 (2 ^ n) }
    let raises (t : State) : Result := .next (t.take (.eccData va))
    let slice (data : List Byte) := (data.drop (a % 32)).take n
    let fixed (k o : Nat) : Byte := if o = k / 8 then l.data.getD o 0#8 ^^^ BitVec.twoPow 8 (k % 8) else l.data.getD o 0#8
    let filled (k : Nat) : Byte :=
      if s.cfg.dlineRam (a / 32 * 32 + k) then s.mem.read (a / 32 * 32 + k) else Config.freeByte s.draws k
    (∀ io c, tcmNumber s.cfg.dtcms a = none → usesDcache s.cfg io c a = true →
      physRead va io c a n s = dcacheRead va a n s ∧ physWrite va io c a bs s = dcacheWrite va a bs s)
    ∧ (eccen = false → l.valid = true → l.line = a / 32 → dcacheRead va a n s = .ok (slice l.data) s)
    ∧ (l.valid = false → ∃ t bytes, dcacheRead va a n s = .ok bytes t
      ∧ (∀ k, k < n → bytes[k]? = some (filled (a % 32 + k)))
      ∧ t = { s with dcache := t.dcache, eccinj := t.eccinj, eccinjOld := t.eccinjOld, draws := t.draws }
      ∧ (t.dline i).valid = true ∧ (t.dline i).dirty = false ∧ field t.eccinj 8 2 = 0#2 ∧ TagWritten s t i (a / 32)
      ∧ (field s.eccinj 8 2 = 0#2 → (t.dline i).dataEcc = .none ∧ ∀ o, o < 32 → (t.dline i).data.getD o 0#8 = filled o)
      ∧ (field s.eccinj 8 2 = 1#2 → ∃ k, k < 256 ∧ (t.dline i).dataEcc = .single k
        ∧ ∀ o, o < 32 → (t.dline i).data.getD o 0#8 =
          if o = k / 8 then filled o ^^^ BitVec.twoPow 8 (k % 8) else filled o)
      ∧ (field s.eccinj 8 2 = 2#2 → (t.dline i).dataEcc = .double)
      ∧ ∀ j, j ≠ i → t.dline j = s.dline j)
    ∧ (∀ k, eccen = true → l.tagEcc = .single k →
      let line := if k < 27 - Nat.log2 s.cfg.dtagUnit then l.line ^^^ (2 ^ k * s.cfg.dtagUnit) else l.line
      let t := signalled (s.setDline i { l with line := line, tagEcc := .none }) 13
      (l.valid = true → dcacheRead va a n s = dcacheRead va a n t ∧ dcacheWrite va a bs s = dcacheWrite va a bs t
        ∧ (s.cfg.tightlyCoupled a = false →
          dcacheFlushAddr va a s = dcacheFlushAddr va a t ∧ dcacheInitAddr va a s = dcacheInitAddr va a t))
      ∧ (l.dirty = true → s.dcacheFlushLine va = t.dcacheFlushLine va))
    ∧ (eccen = true → l.dirty = true → l.tagEcc = .double → eccexe = true →
      (s.dcacheFlushLine va).wbError = true ∧ (s.dcacheFlushLine va).eccBus.getLsbD 14 = true)
    ∧ (eccen = true → l.valid = true → l.tagEcc = .double → eccexe = true →
      let t := signalled { s with draws := s.draws + 1 } 14
      dcacheRead va a n s = .stop (raises t) ∧ dcacheWrite va a bs s = .stop (raises t)
      ∧ (s.cfg.tightlyCoupled a = false →
        dcacheFlushAddr va a s = .stop (raises t) ∧ dcacheInitAddr va a s = .stop (raises t)))
    ∧ (eccen = true → l.valid = true → l.tagEcc = .none → l.line = a / 32 →
      (l.dataEcc = .none → dcacheRead va a n s = .ok (slice l.data) s)
      ∧ (∀ k, l.dirty = true → l.dataEcc = .single k → ∃ t,
        dcacheRead va a n s = .ok (slice (t.dline i).data) (signalled t 15)
        ∧ t = { s with dcache := t.dcache } ∧ t.dline i = { l with data := (t.dline i).data, dataEcc := .none }
        ∧ (∀ o, o < 32 → (t.dline i).data.getD o 0#8 = fixed k o) ∧ ∀ j, j ≠ i → t.dline j = s.dline j)
      ∧ (l.dirty = true → l.dataEcc = .double → eccexe = true → dcacheRead va a n s = .stop (raises (signalled s 16)))
      ∧ (l.dirty = true → l.dataEcc = .double → eccexe = false →
        dcacheRead va a n s = .ok ((List.range n).map (Config.freeByte s.draws)) (signalled { s with draws := s.draws + 1 } 16))
      ∧ (l.dirty = false → l.dataEcc ≠ .none → ∃ t bytes, dcacheRead va a n s = .ok bytes (signalled t 15)
        ∧ t = { s with dcache := t.dcache, eccinj := t.eccinj, eccinjOld := t.eccinjOld, draws := t.draws }
        ∧ (t.dline i).valid = true ∧ (t.dline i).dirty = false
        ∧ (∀ k, k < n → bytes[k]? = some (filled (a % 32 + k)))
        ∧ ∀ j, j ≠ i → t.dline j = s.dline j))
    ∧ (l.tagEcc = .none →
      let t := s.writeBack l
      let inject := field s.eccinj 20 2
      let inLine (x : Nat) := l.line * 32 ≤ x ∧ x < l.line * 32 + 32 ∧ s.cfg.dlineRam x = true
      let writes (data : Nat → Byte) := ∀ x, t.mem.read x = if inLine x then data (x - l.line * 32) else s.mem.read x
      let corrected := t.eccBus = s.eccBus ||| 0x20000#30 ∧ t.wbError = s.wbError
      let lost := t.eccBus = s.eccBus ||| 0x40000#30 ∧ t.wbError = (s.wbError || eccexe)
        ∧ ∀ x, ¬ inLine x → t.mem.read x = s.mem.read x
      field t.eccinj 20 2 = 0#2
      ∧ (eccen = true → inject = 0#2 → l.dataEcc = .none →
        t.eccBus = s.eccBus ∧ t.wbError = s.wbError ∧ writes (fun o => l.data.getD o 0#8))
      ∧ (∀ k, eccen = true → inject = 0#2 → l.dataEcc = .single k → corrected ∧ writes (fixed k))
      ∧ (eccen = true → inject = 0#2 → l.dataEcc = .double → lost)
      ∧ (eccen = true → inject = 1#2 → l.dataEcc = .none → corrected ∧ writes (fun o => l.data.getD o 0#8))
      ∧ (eccen = true → inject = 2#2 → l.dataEcc = .none → lost)
      ∧ (eccen = false → inject = 0#2 → t.eccBus = s.eccBus ∧ t.wbError = s.wbError ∧ writes (fun o => l.data.getD o 0#8))
      ∧ (eccen = false → inject = 1#2 → t.eccBus = s.eccBus ∧ t.wbError = s.wbError ∧ ∃ k, k < 32 ∧ writes (fixed k)))

/-- What a store leaves in the data cache of a core with ECC. Where the line's tag reads and holds the address, the bytes stored are
in the line, which is dirty, without an error where it had none; the error that `eccinj.DCDAT` asks for is in the word stored to, and
the one that `eccinj.DCTAG` asks for in the tag where the line was clean, since the dirty bit is then written; the fields return to 0,
that of DCTAG staying as it is where the tag is not written. An invalid line is filled first, and the fill takes the injection of the
tag, of which the store then leaves no error (log 44). A valid line whose tag reads and holds another address is written back first if
it is dirty, for a load as well (60_exceptions.md R495, 10_state.md R68, 20_memory.md R111, R125). That an injection of the tag is in its
address bits, and one mark for a line's 32 bytes, are log 44; that the model marks a line stored, log 39. -/
def Obligations.EccDataCacheStores : Prop :=
  ∀ (s : State) (va : Word) (a : Nat) (bs : List Byte), s.cfg.ecc = true → s.cfg.wf = true →
    s.LinesWhole → s.dcache.length = s.cfg.dcacheSize / 32 → s.cfg.dcacheSize ≠ 0 → a % 32 / 4 = (a % 32 + bs.length - 1) / 4 →
    bs ≠ [] →
    let i := s.dindex va
    let l := s.dline i
    let inject := field s.eccinj 8 2
    let reads := bit s.config 2 = false ∨ l.tagEcc = .none
    let put (old : Nat → Byte) (o : Nat) : Byte :=
      if a % 32 ≤ o ∧ o < a % 32 + bs.length then bs.getD (o - a % 32) 0#8 else old o
    let stored (o : Nat) : Byte := put (fun o => l.data.getD o 0#8) o
    let filled (o : Nat) : Byte :=
      if s.cfg.dlineRam (a / 32 * 32 + o) then s.mem.read (a / 32 * 32 + o) else Config.freeByte s.draws o
    let done (t : State) := dcacheWrite va a bs s = .ok () t
      ∧ t = { s with dcache := t.dcache, eccinj := t.eccinj, eccinjOld := t.eccinjOld, draws := t.draws }
      ∧ (t.dline i).valid = true ∧ (t.dline i).dirty = true ∧ (t.dline i).stored = true ∧ field t.eccinj 8 2 = 0#2
      ∧ ∀ j, j ≠ i → t.dline j = s.dline j
    let flip (k : Nat) (data : Nat → Byte) (o : Nat) : Byte :=
      if o = k / 8 then data o ^^^ BitVec.twoPow 8 (k % 8) else data o
    let holds (t : State) (data : Nat → Byte) := ∀ o, o < 32 → (t.dline i).data.getD o 0#8 = data o
    (l.valid = true → reads → l.line = a / 32 → ∃ t, done t
      ∧ (inject = 0#2 → holds t stored ∧ (l.dataEcc = .none → (t.dline i).dataEcc = .none))
      ∧ (inject = 1#2 → l.dataEcc = .none →
        ∃ k, a % 32 / 4 = k / 32 ∧ (t.dline i).dataEcc = .single k ∧ holds t (flip k stored))
      ∧ (inject = 2#2 → (t.dline i).dataEcc = .double ∧ (l.dataEcc = .none →
        ∃ j k, a % 32 / 4 = j / 32 ∧ a % 32 / 4 = k / 32 ∧ j ≠ k ∧ holds t (flip j (flip k stored))))
      ∧ (l.dirty = true → (t.dline i).tagEcc = l.tagEcc ∧ (t.dline i).line = l.line ∧ field t.eccinj 6 2 = field s.eccinj 6 2)
      ∧ (l.dirty = false → TagWritten s t i (a / 32)))
    ∧ (l.valid = false → ∃ t, done t ∧ (t.dline i).tagEcc = .none ∧ (t.dline i).line = a / 32 ∧ field t.eccinj 6 2 = 0#2
      ∧ (inject = 0#2 → (t.dline i).dataEcc = .none ∧ holds t (put filled)))
    ∧ (l.valid = true → reads → l.line ≠ a / 32 →
      let t := (if l.dirty then s.writeBack l else s).setDline i { l with valid := false }
      dcacheWrite va a bs s = dcacheWrite va a bs t ∧ ∀ n, dcacheRead va a n s = dcacheRead va a n t)

/-- The instruction side and tightly-coupled memory of a core with ECC. With ECCEN = 0 a word of tightly-coupled memory reads as its RAM
holds it. With ECCEN = 1: an error in an instruction cache line never raises: the line is read again from memory and the error
signalled. A 2-bit error in a word of an instruction tightly-coupled memory raises cause 19 where ECCEXE is 1, after the errors of the
source registers and is signalled with it, not where another exception wins (60_exceptions.md R441), in a data one cause 21; a 1-bit
error is corrected, in the RAM too, and signalled in both. A word stored in a data tightly-coupled memory leaves no old error, and the
error that its field of `eccinj` asks for (R490, R491, R495, R496, 10_state.md R68). The late exceptions of the fetch, cause 19 and the
MPU's cause 16, are taken by the step after the source registers are read, and an error of those comes first (R441); that those are
the registers of the word that the fetch found all the same is the model's choice (log 55). That one mark covers a word, and what a narrower store leaves, is log 44; that with ECCEN = 0 nothing is signalled, log 35. -/
def Obligations.EccFetchAndTcm : Prop :=
  ∀ (s : State) (va : Word) (a : Nat), s.cfg.ecc = true → s.cfg.wf = true → s.LinesWhole →
    s.icache.length = s.cfg.icacheSize / 32 → a % 4 = 0 → s.Canonical →
    let i := va.toNat / 32 % (s.cfg.icacheSize / 32)
    let l := s.iline i
    let eccen := bit s.config 2
    let eccexe := bit s.config 3
    let mark (t : State) (a : Nat) := sparseGet EccMark.none t.tcmEcc (a / 4)
    let memory (k : Nat) (ram : Nat → Bool) (base : Nat) : Byte :=
      if ram (base + k) then s.mem.read (base + k) else Config.freeByte s.draws k
    let line := (List.range 4).map (fun k => memory (a % 32 + k) s.cfg.ilineRam (a / 32 * 32))
    let inMem (t : State) (w : Word) := ∀ j, j < 4 → t.mem.read (a + j) = w.extractLsb' (8 * j) 8
    let elsewhere (t : State) := (∀ x, x < a ∨ a + 4 ≤ x → t.mem.read x = s.mem.read x)
      ∧ ∀ j, j ≠ a / 4 → sparseGet EccMark.none t.tcmEcc j = sparseGet EccMark.none s.tcmEcc j
    let word : Word := s.mem.read (a + 3) ++ s.mem.read (a + 2) ++ s.mem.read (a + 1) ++ s.mem.read a
    let fixed (k : Nat) : Word := if k < 32 then word ^^^ BitVec.twoPow 32 k else word
    let bytes (w : Word) : List Byte := (List.range 4).map (fun j => w.extractLsb' (8 * j) 8)
    let signal (n : Nat) : BitVec 30 := s.eccBus ||| BitVec.ofNat 30 (2 ^ n)
    (∀ u : State, u.takeLate .mpuInstr = u.take .mpuInstr
      ∧ ∀ k, u.takeLate (.eccFetch k) = State.take { u with eccBus := u.eccBus ||| BitVec.ofNat 30 (2 ^ (6 + 2 * k)) } .eccFetch)
    ∧ (∀ (u : State) (f : Fetched) (x : LateExc), f.late = some x → u.cfg.isF = true →
      (∀ i rest, decode (bytesOfWord f.word) = .ok (i, rest) →
        (∀ u2, readSources (sources i u) u = .ok () u2 → runWord f u = .next (u2.takeLate x))
        ∧ ∀ r, readSources (sources i u) u = .stop r → runWord f u = r)
      ∧ (∀ e, decode (bytesOfWord f.word) = .error e → runWord f u = .next (u.takeLate x))
      ∧ field (u.take .eccFetch).exception 2 5 = 19#5 ∧ field (u.take .mpuInstr).exception 2 5 = 16#5)
    ∧ (s.cfg.icacheSize ≠ 0 → eccen = true → l.valid = true → l.tagEcc ≠ .none ∨ l.dataEcc ≠ .none → ∃ t,
      icacheRead va a s = .ok line t
      ∧ t = { s with icache := t.icache, prefetched := t.prefetched, eccinj := t.eccinj, draws := t.draws,
                     eccBus := s.eccBus ||| ((if l.tagEcc = .none then 0#30 else 8#30) |||
                       (if l.dataEcc = .none then 0#30 else 16#30)) }
      ∧ (t.iline i).valid = true ∧ ∀ j, j ≠ i → t.iline j = s.iline j)
    ∧ (∀ k, tcmNumber s.cfg.itcms a = some k → (∀ j, j < 4 → s.cfg.fetchRam (a + j) = true) →
      (mark s a = .none ∨ eccen = false → physFetch va a s = .ok { word := word, late := none } s)
      ∧ (∀ b, mark s a = .single b → eccen = true → ∃ t, physFetch va a s = .ok { word := fixed b, late := none } t
        ∧ mark t a = .none ∧ inMem t (fixed b) ∧ elsewhere t
        ∧ t = { s with mem := t.mem, tcmEcc := t.tcmEcc, eccBus := signal (5 + 2 * k) })
      ∧ (mark s a = .double → eccen = true → eccexe = true → ∃ f, f.late = some (.eccFetch k) ∧ physFetch va a s = .ok f s))
    ∧ (∀ k io c, tcmNumber s.cfg.dtcms a = some k → (∀ j, j < 4 → s.cfg.dataRam (a + j) = true) →
      (mark s a = .none ∨ eccen = false → physRead va io c a 4 s = .ok (bytes word) s)
      ∧ (∀ b, mark s a = .single b → eccen = true → ∃ t, physRead va io c a 4 s = .ok (bytes (fixed b)) t
        ∧ mark t a = .none ∧ inMem t (fixed b) ∧ elsewhere t
        ∧ t = { s with mem := t.mem, tcmEcc := t.tcmEcc, eccBus := signal (22 + 2 * k) })
      ∧ (mark s a = .double → eccen = true → eccexe = true → physRead va io c a 4 s =
          .stop (.next (State.take { s with eccBus := signal (23 + 2 * k) } (.eccData va))))
      ∧ ∀ w : Word, ∃ t, physWrite va io c a (bytes w) s = .ok () t ∧ elsewhere t
        ∧ field t.eccinj (12 + 2 * k) 2 = 0#2
        ∧ (field s.eccinj (12 + 2 * k) 2 = 0#2 → mark t a = .none ∧ inMem t w)
        ∧ (field s.eccinj (12 + 2 * k) 2 = 1#2 → ∃ b, b < 32 ∧ mark t a = .single b ∧ inMem t (w ^^^ BitVec.twoPow 32 b))
        ∧ (field s.eccinj (12 + 2 * k) 2 = 2#2 → ∃ b d, b < 32 ∧ d < 32 ∧ b ≠ d ∧ mark t a = .double
          ∧ inMem t (w ^^^ BitVec.twoPow 32 b ^^^ BitVec.twoPow 32 d)))

/-! ## Invariants -/

/-- The machine right after reset satisfies every invariant stated here, in every configuration that 00_scope.md R7 admits;
the default one is such. -/
def Obligations.ResetInvariants : Prop :=
  Config.default.wf = true ∧
  ∀ c : Config, c.wf = true →
    let s := State.resetOf c
    s.Canonical ∧ s.StatusImplemented ∧ s.SpecialImplemented ∧ s.PcAligned ∧ s.VectorsAligned ∧ s.Shaped ∧ s.LinesWhole
    ∧ s.SetImplemented

/-- Every step keeps memory, the ECC marks and the old instruction words in canonical form. -/
def Obligations.StepKeepsCanonical : Prop :=
  ∀ s t : State, s.Canonical → step s = .next t → t.Canonical

/-- Every step keeps the unimplemented and reserved bits of `status`, `estatus` and `bstatus`, and the reserved bits of the special
registers with ECCFTL and EE of a core without ECC, as the spec says they read (10_state.md R30, R42, R43, R48 to R51, R61 to R63,
R68; that RD of `tlbmisc` reads 0 is D4, that RD and WR of `mpuacc` do is D5, log 46). -/
def Obligations.StepKeepsImplementedBits : Prop :=
  ∀ s t : State, s.StatusImplemented → s.SpecialImplemented → step s = .next t →
    t.StatusImplemented ∧ t.SpecialImplemented

/-- Every step keeps the configuration, the sizes of every table and of every cache line, and what the environment drives: the
interrupt lines, the reset and debug inputs (the model's, log 11). A hardware-break request may be consumed (log 43), and the EIC's
latched request may be emptied by a reset (D25, log 10); neither ever appears. -/
def Obligations.StepKeepsShape : Prop :=
  ∀ s t : State, s.Shaped → s.LinesWhole → step s = .next t →
    t.Shaped ∧ t.LinesWhole ∧ t.cfg = s.cfg ∧ t.irq = s.irq ∧ t.resetPin = s.resetPin
    ∧ t.cpuResetRequest = s.cpuResetRequest ∧ t.resetReq = s.resetReq ∧ t.debugReq = s.debugReq
    ∧ (t.hwBreak = s.hwBreak ∨ t.hwBreak = false) ∧ (t.eic = s.eic ∨ t.eic = { s.eic with ril := 0#6, rnmi := false })

/-- Every step keeps `pc` a multiple of 4, for vectors that 00_scope.md R7 admits and an EIC handler address that is an
instruction address (10_state.md R26). -/
def Obligations.StepKeepsPcAligned : Prop :=
  ∀ s t : State, s.VectorsAligned → s.PcAligned → step s = .next t → t.VectorsAligned ∧ t.PcAligned

/-- User mode is contained: a step from user mode either stays in it with every control register but `eccinj` and the MPU
unchanged, and on a core without ECC the TLB and `eccinj` as well, or arrives in supervisor mode at one of the vectors or at the
EIC's handler address (10_state.md R29, R38, 60_exceptions.md R451, 46_other_control.md R391). With ECC the statement leaves the TLB
and `eccinj` free: an injection that is done returns its field of `eccinj` to 0 (10_state.md R68, 60_exceptions.md R495), and an access
corrects a 1-bit error of the TLB (R491). -/
def Obligations.UserModeContained : Prop :=
  ∀ s t : State, stU s.status = true → step s = .next t →
    (stU t.status = true → t.status = s.status ∧ t.estatus = s.estatus ∧ t.bstatus = s.bstatus ∧ t.ienable = s.ienable
      ∧ t.exception = s.exception ∧ t.pteaddr = s.pteaddr ∧ t.tlbacc = s.tlbacc ∧ t.tlbmisc = s.tlbmisc
      ∧ t.badaddr = s.badaddr ∧ t.config = s.config ∧ t.mpubase = s.mpubase ∧ t.mpuacc = s.mpuacc
      ∧ t.iregions = s.iregions ∧ t.dregions = s.dregions ∧ (s.cfg.ecc = false → t.tlb = s.tlb ∧ t.eccinj = s.eccinj))
    ∧ (stU t.status = false → t.pc = s.eic.rha ∨ ∃ v ∈ [s.cfg.resetAddr, s.cfg.exceptionAddr, s.cfg.breakAddr,
        s.cfg.fastTlbMissAddr], t.pc = vectorOf s.cfg v)
end

