-- ==== Sys2Proof/Laws/State.lean ====
section
/-! SUPPORT. One lemma per field per plain update of the state, true by `rfl`, so that no proof unfolds a record update. -/

namespace Sys2Proof.Machine

open Sys2Proof

/-! ## drawn -/

@[simp] theorem State.drawn_draws (s : State) : (s.drawn).draws = s.draws + 1 := rfl
@[simp] theorem State.drawn_cfg (s : State) : (s.drawn).cfg = s.cfg := rfl
@[simp] theorem State.drawn_pc (s : State) : (s.drawn).pc = s.pc := rfl
@[simp] theorem State.drawn_gpr (s : State) : (s.drawn).gpr = s.gpr := rfl
@[simp] theorem State.drawn_shadow (s : State) : (s.drawn).shadow = s.shadow := rfl
@[simp] theorem State.drawn_status (s : State) : (s.drawn).status = s.status := rfl
@[simp] theorem State.drawn_estatus (s : State) : (s.drawn).estatus = s.estatus := rfl
@[simp] theorem State.drawn_bstatus (s : State) : (s.drawn).bstatus = s.bstatus := rfl
@[simp] theorem State.drawn_ienable (s : State) : (s.drawn).ienable = s.ienable := rfl
@[simp] theorem State.drawn_exception (s : State) : (s.drawn).exception = s.exception := rfl
@[simp] theorem State.drawn_pteaddr (s : State) : (s.drawn).pteaddr = s.pteaddr := rfl
@[simp] theorem State.drawn_tlbacc (s : State) : (s.drawn).tlbacc = s.tlbacc := rfl
@[simp] theorem State.drawn_tlbmisc (s : State) : (s.drawn).tlbmisc = s.tlbmisc := rfl
@[simp] theorem State.drawn_eccinj (s : State) : (s.drawn).eccinj = s.eccinj := rfl
@[simp] theorem State.drawn_eccinjOld (s : State) : (s.drawn).eccinjOld = s.eccinjOld := rfl
@[simp] theorem State.drawn_badaddr (s : State) : (s.drawn).badaddr = s.badaddr := rfl
@[simp] theorem State.drawn_config (s : State) : (s.drawn).config = s.config := rfl
@[simp] theorem State.drawn_mpubase (s : State) : (s.drawn).mpubase = s.mpubase := rfl
@[simp] theorem State.drawn_mpuacc (s : State) : (s.drawn).mpuacc = s.mpuacc := rfl
@[simp] theorem State.drawn_tlb (s : State) : (s.drawn).tlb = s.tlb := rfl
@[simp] theorem State.drawn_iregions (s : State) : (s.drawn).iregions = s.iregions := rfl
@[simp] theorem State.drawn_dregions (s : State) : (s.drawn).dregions = s.dregions := rfl
@[simp] theorem State.drawn_icache (s : State) : (s.drawn).icache = s.icache := rfl
@[simp] theorem State.drawn_dcache (s : State) : (s.drawn).dcache = s.dcache := rfl
@[simp] theorem State.drawn_prefetched (s : State) : (s.drawn).prefetched = s.prefetched := rfl
@[simp] theorem State.drawn_readAhead (s : State) : (s.drawn).readAhead = s.readAhead := rfl
@[simp] theorem State.drawn_mem (s : State) : (s.drawn).mem = s.mem := rfl
@[simp] theorem State.drawn_irq (s : State) : (s.drawn).irq = s.irq := rfl
@[simp] theorem State.drawn_eic (s : State) : (s.drawn).eic = s.eic := rfl
@[simp] theorem State.drawn_resetPin (s : State) : (s.drawn).resetPin = s.resetPin := rfl
@[simp] theorem State.drawn_cpuResetRequest (s : State) : (s.drawn).cpuResetRequest = s.cpuResetRequest := rfl
@[simp] theorem State.drawn_resetReq (s : State) : (s.drawn).resetReq = s.resetReq := rfl
@[simp] theorem State.drawn_hwBreak (s : State) : (s.drawn).hwBreak = s.hwBreak := rfl
@[simp] theorem State.drawn_debugReq (s : State) : (s.drawn).debugReq = s.debugReq := rfl
@[simp] theorem State.drawn_debugMode (s : State) : (s.drawn).debugMode = s.debugMode := rfl
@[simp] theorem State.drawn_rfEcc (s : State) : (s.drawn).rfEcc = s.rfEcc := rfl
@[simp] theorem State.drawn_tcmEcc (s : State) : (s.drawn).tcmEcc = s.tcmEcc := rfl
@[simp] theorem State.drawn_wbError (s : State) : (s.drawn).wbError = s.wbError := rfl
@[simp] theorem State.drawn_eccBus (s : State) : (s.drawn).eccBus = s.eccBus := rfl
@[simp] theorem State.drawn_customState (s : State) : (s.drawn).customState = s.customState := rfl

/-! ## signal -/

@[simp] theorem State.signal_cfg (s : State) (n : Nat) : (s.signal n).cfg = s.cfg := rfl
@[simp] theorem State.signal_pc (s : State) (n : Nat) : (s.signal n).pc = s.pc := rfl
@[simp] theorem State.signal_gpr (s : State) (n : Nat) : (s.signal n).gpr = s.gpr := rfl
@[simp] theorem State.signal_shadow (s : State) (n : Nat) : (s.signal n).shadow = s.shadow := rfl
@[simp] theorem State.signal_status (s : State) (n : Nat) : (s.signal n).status = s.status := rfl
@[simp] theorem State.signal_estatus (s : State) (n : Nat) : (s.signal n).estatus = s.estatus := rfl
@[simp] theorem State.signal_bstatus (s : State) (n : Nat) : (s.signal n).bstatus = s.bstatus := rfl
@[simp] theorem State.signal_ienable (s : State) (n : Nat) : (s.signal n).ienable = s.ienable := rfl
@[simp] theorem State.signal_exception (s : State) (n : Nat) : (s.signal n).exception = s.exception := rfl
@[simp] theorem State.signal_pteaddr (s : State) (n : Nat) : (s.signal n).pteaddr = s.pteaddr := rfl
@[simp] theorem State.signal_tlbacc (s : State) (n : Nat) : (s.signal n).tlbacc = s.tlbacc := rfl
@[simp] theorem State.signal_tlbmisc (s : State) (n : Nat) : (s.signal n).tlbmisc = s.tlbmisc := rfl
@[simp] theorem State.signal_eccinj (s : State) (n : Nat) : (s.signal n).eccinj = s.eccinj := rfl
@[simp] theorem State.signal_eccinjOld (s : State) (n : Nat) : (s.signal n).eccinjOld = s.eccinjOld := rfl
@[simp] theorem State.signal_badaddr (s : State) (n : Nat) : (s.signal n).badaddr = s.badaddr := rfl
@[simp] theorem State.signal_config (s : State) (n : Nat) : (s.signal n).config = s.config := rfl
@[simp] theorem State.signal_mpubase (s : State) (n : Nat) : (s.signal n).mpubase = s.mpubase := rfl
@[simp] theorem State.signal_mpuacc (s : State) (n : Nat) : (s.signal n).mpuacc = s.mpuacc := rfl
@[simp] theorem State.signal_tlb (s : State) (n : Nat) : (s.signal n).tlb = s.tlb := rfl
@[simp] theorem State.signal_iregions (s : State) (n : Nat) : (s.signal n).iregions = s.iregions := rfl
@[simp] theorem State.signal_dregions (s : State) (n : Nat) : (s.signal n).dregions = s.dregions := rfl
@[simp] theorem State.signal_icache (s : State) (n : Nat) : (s.signal n).icache = s.icache := rfl
@[simp] theorem State.signal_dcache (s : State) (n : Nat) : (s.signal n).dcache = s.dcache := rfl
@[simp] theorem State.signal_prefetched (s : State) (n : Nat) : (s.signal n).prefetched = s.prefetched := rfl
@[simp] theorem State.signal_readAhead (s : State) (n : Nat) : (s.signal n).readAhead = s.readAhead := rfl
@[simp] theorem State.signal_mem (s : State) (n : Nat) : (s.signal n).mem = s.mem := rfl
@[simp] theorem State.signal_irq (s : State) (n : Nat) : (s.signal n).irq = s.irq := rfl
@[simp] theorem State.signal_eic (s : State) (n : Nat) : (s.signal n).eic = s.eic := rfl
@[simp] theorem State.signal_resetPin (s : State) (n : Nat) : (s.signal n).resetPin = s.resetPin := rfl
@[simp] theorem State.signal_cpuResetRequest (s : State) (n : Nat) : (s.signal n).cpuResetRequest = s.cpuResetRequest := rfl
@[simp] theorem State.signal_resetReq (s : State) (n : Nat) : (s.signal n).resetReq = s.resetReq := rfl
@[simp] theorem State.signal_hwBreak (s : State) (n : Nat) : (s.signal n).hwBreak = s.hwBreak := rfl
@[simp] theorem State.signal_debugReq (s : State) (n : Nat) : (s.signal n).debugReq = s.debugReq := rfl
@[simp] theorem State.signal_debugMode (s : State) (n : Nat) : (s.signal n).debugMode = s.debugMode := rfl
@[simp] theorem State.signal_rfEcc (s : State) (n : Nat) : (s.signal n).rfEcc = s.rfEcc := rfl
@[simp] theorem State.signal_tcmEcc (s : State) (n : Nat) : (s.signal n).tcmEcc = s.tcmEcc := rfl
@[simp] theorem State.signal_wbError (s : State) (n : Nat) : (s.signal n).wbError = s.wbError := rfl
@[simp] theorem State.signal_customState (s : State) (n : Nat) : (s.signal n).customState = s.customState := rfl
@[simp] theorem State.signal_draws (s : State) (n : Nat) : (s.signal n).draws = s.draws := rfl

/-! ## pipelineFlushed -/

@[simp] theorem State.pipelineFlushed_prefetched (s : State) : (s.pipelineFlushed).prefetched = [] := rfl
@[simp] theorem State.pipelineFlushed_eccinjOld (s : State) : (s.pipelineFlushed).eccinjOld = 0#32 := rfl
@[simp] theorem State.pipelineFlushed_cfg (s : State) : (s.pipelineFlushed).cfg = s.cfg := rfl
@[simp] theorem State.pipelineFlushed_pc (s : State) : (s.pipelineFlushed).pc = s.pc := rfl
@[simp] theorem State.pipelineFlushed_gpr (s : State) : (s.pipelineFlushed).gpr = s.gpr := rfl
@[simp] theorem State.pipelineFlushed_shadow (s : State) : (s.pipelineFlushed).shadow = s.shadow := rfl
@[simp] theorem State.pipelineFlushed_status (s : State) : (s.pipelineFlushed).status = s.status := rfl
@[simp] theorem State.pipelineFlushed_estatus (s : State) : (s.pipelineFlushed).estatus = s.estatus := rfl
@[simp] theorem State.pipelineFlushed_bstatus (s : State) : (s.pipelineFlushed).bstatus = s.bstatus := rfl
@[simp] theorem State.pipelineFlushed_ienable (s : State) : (s.pipelineFlushed).ienable = s.ienable := rfl
@[simp] theorem State.pipelineFlushed_exception (s : State) : (s.pipelineFlushed).exception = s.exception := rfl
@[simp] theorem State.pipelineFlushed_pteaddr (s : State) : (s.pipelineFlushed).pteaddr = s.pteaddr := rfl
@[simp] theorem State.pipelineFlushed_tlbacc (s : State) : (s.pipelineFlushed).tlbacc = s.tlbacc := rfl
@[simp] theorem State.pipelineFlushed_tlbmisc (s : State) : (s.pipelineFlushed).tlbmisc = s.tlbmisc := rfl
@[simp] theorem State.pipelineFlushed_eccinj (s : State) : (s.pipelineFlushed).eccinj = s.eccinj := rfl
@[simp] theorem State.pipelineFlushed_badaddr (s : State) : (s.pipelineFlushed).badaddr = s.badaddr := rfl
@[simp] theorem State.pipelineFlushed_config (s : State) : (s.pipelineFlushed).config = s.config := rfl
@[simp] theorem State.pipelineFlushed_mpubase (s : State) : (s.pipelineFlushed).mpubase = s.mpubase := rfl
@[simp] theorem State.pipelineFlushed_mpuacc (s : State) : (s.pipelineFlushed).mpuacc = s.mpuacc := rfl
@[simp] theorem State.pipelineFlushed_tlb (s : State) : (s.pipelineFlushed).tlb = s.tlb := rfl
@[simp] theorem State.pipelineFlushed_iregions (s : State) : (s.pipelineFlushed).iregions = s.iregions := rfl
@[simp] theorem State.pipelineFlushed_dregions (s : State) : (s.pipelineFlushed).dregions = s.dregions := rfl
@[simp] theorem State.pipelineFlushed_icache (s : State) : (s.pipelineFlushed).icache = s.icache := rfl
@[simp] theorem State.pipelineFlushed_dcache (s : State) : (s.pipelineFlushed).dcache = s.dcache := rfl
@[simp] theorem State.pipelineFlushed_readAhead (s : State) : (s.pipelineFlushed).readAhead = s.readAhead := rfl
@[simp] theorem State.pipelineFlushed_mem (s : State) : (s.pipelineFlushed).mem = s.mem := rfl
@[simp] theorem State.pipelineFlushed_irq (s : State) : (s.pipelineFlushed).irq = s.irq := rfl
@[simp] theorem State.pipelineFlushed_eic (s : State) : (s.pipelineFlushed).eic = s.eic := rfl
@[simp] theorem State.pipelineFlushed_resetPin (s : State) : (s.pipelineFlushed).resetPin = s.resetPin := rfl
@[simp] theorem State.pipelineFlushed_cpuResetRequest (s : State) : (s.pipelineFlushed).cpuResetRequest = s.cpuResetRequest := rfl
@[simp] theorem State.pipelineFlushed_resetReq (s : State) : (s.pipelineFlushed).resetReq = s.resetReq := rfl
@[simp] theorem State.pipelineFlushed_hwBreak (s : State) : (s.pipelineFlushed).hwBreak = s.hwBreak := rfl
@[simp] theorem State.pipelineFlushed_debugReq (s : State) : (s.pipelineFlushed).debugReq = s.debugReq := rfl
@[simp] theorem State.pipelineFlushed_debugMode (s : State) : (s.pipelineFlushed).debugMode = s.debugMode := rfl
@[simp] theorem State.pipelineFlushed_rfEcc (s : State) : (s.pipelineFlushed).rfEcc = s.rfEcc := rfl
@[simp] theorem State.pipelineFlushed_tcmEcc (s : State) : (s.pipelineFlushed).tcmEcc = s.tcmEcc := rfl
@[simp] theorem State.pipelineFlushed_wbError (s : State) : (s.pipelineFlushed).wbError = s.wbError := rfl
@[simp] theorem State.pipelineFlushed_eccBus (s : State) : (s.pipelineFlushed).eccBus = s.eccBus := rfl
@[simp] theorem State.pipelineFlushed_customState (s : State) : (s.pipelineFlushed).customState = s.customState := rfl
@[simp] theorem State.pipelineFlushed_draws (s : State) : (s.pipelineFlushed).draws = s.draws := rfl

/-! ## advance -/

@[simp] theorem State.advance_pc (s : State) : (s.advance).pc = s.pc + 4#32 := rfl
@[simp] theorem State.advance_cfg (s : State) : (s.advance).cfg = s.cfg := rfl
@[simp] theorem State.advance_gpr (s : State) : (s.advance).gpr = s.gpr := rfl
@[simp] theorem State.advance_shadow (s : State) : (s.advance).shadow = s.shadow := rfl
@[simp] theorem State.advance_status (s : State) : (s.advance).status = s.status := rfl
@[simp] theorem State.advance_estatus (s : State) : (s.advance).estatus = s.estatus := rfl
@[simp] theorem State.advance_bstatus (s : State) : (s.advance).bstatus = s.bstatus := rfl
@[simp] theorem State.advance_ienable (s : State) : (s.advance).ienable = s.ienable := rfl
@[simp] theorem State.advance_exception (s : State) : (s.advance).exception = s.exception := rfl
@[simp] theorem State.advance_pteaddr (s : State) : (s.advance).pteaddr = s.pteaddr := rfl
@[simp] theorem State.advance_tlbacc (s : State) : (s.advance).tlbacc = s.tlbacc := rfl
@[simp] theorem State.advance_tlbmisc (s : State) : (s.advance).tlbmisc = s.tlbmisc := rfl
@[simp] theorem State.advance_eccinj (s : State) : (s.advance).eccinj = s.eccinj := rfl
@[simp] theorem State.advance_eccinjOld (s : State) : (s.advance).eccinjOld = s.eccinjOld := rfl
@[simp] theorem State.advance_badaddr (s : State) : (s.advance).badaddr = s.badaddr := rfl
@[simp] theorem State.advance_config (s : State) : (s.advance).config = s.config := rfl
@[simp] theorem State.advance_mpubase (s : State) : (s.advance).mpubase = s.mpubase := rfl
@[simp] theorem State.advance_mpuacc (s : State) : (s.advance).mpuacc = s.mpuacc := rfl
@[simp] theorem State.advance_tlb (s : State) : (s.advance).tlb = s.tlb := rfl
@[simp] theorem State.advance_iregions (s : State) : (s.advance).iregions = s.iregions := rfl
@[simp] theorem State.advance_dregions (s : State) : (s.advance).dregions = s.dregions := rfl
@[simp] theorem State.advance_icache (s : State) : (s.advance).icache = s.icache := rfl
@[simp] theorem State.advance_dcache (s : State) : (s.advance).dcache = s.dcache := rfl
@[simp] theorem State.advance_prefetched (s : State) : (s.advance).prefetched = s.prefetched := rfl
@[simp] theorem State.advance_readAhead (s : State) : (s.advance).readAhead = s.readAhead := rfl
@[simp] theorem State.advance_mem (s : State) : (s.advance).mem = s.mem := rfl
@[simp] theorem State.advance_irq (s : State) : (s.advance).irq = s.irq := rfl
@[simp] theorem State.advance_eic (s : State) : (s.advance).eic = s.eic := rfl
@[simp] theorem State.advance_resetPin (s : State) : (s.advance).resetPin = s.resetPin := rfl
@[simp] theorem State.advance_cpuResetRequest (s : State) : (s.advance).cpuResetRequest = s.cpuResetRequest := rfl
@[simp] theorem State.advance_resetReq (s : State) : (s.advance).resetReq = s.resetReq := rfl
@[simp] theorem State.advance_hwBreak (s : State) : (s.advance).hwBreak = s.hwBreak := rfl
@[simp] theorem State.advance_debugReq (s : State) : (s.advance).debugReq = s.debugReq := rfl
@[simp] theorem State.advance_debugMode (s : State) : (s.advance).debugMode = s.debugMode := rfl
@[simp] theorem State.advance_rfEcc (s : State) : (s.advance).rfEcc = s.rfEcc := rfl
@[simp] theorem State.advance_tcmEcc (s : State) : (s.advance).tcmEcc = s.tcmEcc := rfl
@[simp] theorem State.advance_wbError (s : State) : (s.advance).wbError = s.wbError := rfl
@[simp] theorem State.advance_eccBus (s : State) : (s.advance).eccBus = s.eccBus := rfl
@[simp] theorem State.advance_customState (s : State) : (s.advance).customState = s.customState := rfl
@[simp] theorem State.advance_draws (s : State) : (s.advance).draws = s.draws := rfl

/-! ## setTcmMark -/

@[simp] theorem State.setTcmMark_cfg (s : State) (a : Nat) (m : EccMark) : (s.setTcmMark a m).cfg = s.cfg := rfl
@[simp] theorem State.setTcmMark_pc (s : State) (a : Nat) (m : EccMark) : (s.setTcmMark a m).pc = s.pc := rfl
@[simp] theorem State.setTcmMark_gpr (s : State) (a : Nat) (m : EccMark) : (s.setTcmMark a m).gpr = s.gpr := rfl
@[simp] theorem State.setTcmMark_shadow (s : State) (a : Nat) (m : EccMark) : (s.setTcmMark a m).shadow = s.shadow := rfl
@[simp] theorem State.setTcmMark_status (s : State) (a : Nat) (m : EccMark) : (s.setTcmMark a m).status = s.status := rfl
@[simp] theorem State.setTcmMark_estatus (s : State) (a : Nat) (m : EccMark) : (s.setTcmMark a m).estatus = s.estatus := rfl
@[simp] theorem State.setTcmMark_bstatus (s : State) (a : Nat) (m : EccMark) : (s.setTcmMark a m).bstatus = s.bstatus := rfl
@[simp] theorem State.setTcmMark_ienable (s : State) (a : Nat) (m : EccMark) : (s.setTcmMark a m).ienable = s.ienable := rfl
@[simp] theorem State.setTcmMark_exception (s : State) (a : Nat) (m : EccMark) : (s.setTcmMark a m).exception = s.exception := rfl
@[simp] theorem State.setTcmMark_pteaddr (s : State) (a : Nat) (m : EccMark) : (s.setTcmMark a m).pteaddr = s.pteaddr := rfl
@[simp] theorem State.setTcmMark_tlbacc (s : State) (a : Nat) (m : EccMark) : (s.setTcmMark a m).tlbacc = s.tlbacc := rfl
@[simp] theorem State.setTcmMark_tlbmisc (s : State) (a : Nat) (m : EccMark) : (s.setTcmMark a m).tlbmisc = s.tlbmisc := rfl
@[simp] theorem State.setTcmMark_eccinj (s : State) (a : Nat) (m : EccMark) : (s.setTcmMark a m).eccinj = s.eccinj := rfl
@[simp] theorem State.setTcmMark_eccinjOld (s : State) (a : Nat) (m : EccMark) : (s.setTcmMark a m).eccinjOld = s.eccinjOld := rfl
@[simp] theorem State.setTcmMark_badaddr (s : State) (a : Nat) (m : EccMark) : (s.setTcmMark a m).badaddr = s.badaddr := rfl
@[simp] theorem State.setTcmMark_config (s : State) (a : Nat) (m : EccMark) : (s.setTcmMark a m).config = s.config := rfl
@[simp] theorem State.setTcmMark_mpubase (s : State) (a : Nat) (m : EccMark) : (s.setTcmMark a m).mpubase = s.mpubase := rfl
@[simp] theorem State.setTcmMark_mpuacc (s : State) (a : Nat) (m : EccMark) : (s.setTcmMark a m).mpuacc = s.mpuacc := rfl
@[simp] theorem State.setTcmMark_tlb (s : State) (a : Nat) (m : EccMark) : (s.setTcmMark a m).tlb = s.tlb := rfl
@[simp] theorem State.setTcmMark_iregions (s : State) (a : Nat) (m : EccMark) : (s.setTcmMark a m).iregions = s.iregions := rfl
@[simp] theorem State.setTcmMark_dregions (s : State) (a : Nat) (m : EccMark) : (s.setTcmMark a m).dregions = s.dregions := rfl
@[simp] theorem State.setTcmMark_icache (s : State) (a : Nat) (m : EccMark) : (s.setTcmMark a m).icache = s.icache := rfl
@[simp] theorem State.setTcmMark_dcache (s : State) (a : Nat) (m : EccMark) : (s.setTcmMark a m).dcache = s.dcache := rfl
@[simp] theorem State.setTcmMark_prefetched (s : State) (a : Nat) (m : EccMark) : (s.setTcmMark a m).prefetched = s.prefetched := rfl
@[simp] theorem State.setTcmMark_readAhead (s : State) (a : Nat) (m : EccMark) : (s.setTcmMark a m).readAhead = s.readAhead := rfl
@[simp] theorem State.setTcmMark_mem (s : State) (a : Nat) (m : EccMark) : (s.setTcmMark a m).mem = s.mem := rfl
@[simp] theorem State.setTcmMark_irq (s : State) (a : Nat) (m : EccMark) : (s.setTcmMark a m).irq = s.irq := rfl
@[simp] theorem State.setTcmMark_eic (s : State) (a : Nat) (m : EccMark) : (s.setTcmMark a m).eic = s.eic := rfl
@[simp] theorem State.setTcmMark_resetPin (s : State) (a : Nat) (m : EccMark) : (s.setTcmMark a m).resetPin = s.resetPin := rfl
@[simp] theorem State.setTcmMark_cpuResetRequest (s : State) (a : Nat) (m : EccMark) : (s.setTcmMark a m).cpuResetRequest = s.cpuResetRequest := rfl
@[simp] theorem State.setTcmMark_resetReq (s : State) (a : Nat) (m : EccMark) : (s.setTcmMark a m).resetReq = s.resetReq := rfl
@[simp] theorem State.setTcmMark_hwBreak (s : State) (a : Nat) (m : EccMark) : (s.setTcmMark a m).hwBreak = s.hwBreak := rfl
@[simp] theorem State.setTcmMark_debugReq (s : State) (a : Nat) (m : EccMark) : (s.setTcmMark a m).debugReq = s.debugReq := rfl
@[simp] theorem State.setTcmMark_debugMode (s : State) (a : Nat) (m : EccMark) : (s.setTcmMark a m).debugMode = s.debugMode := rfl
@[simp] theorem State.setTcmMark_rfEcc (s : State) (a : Nat) (m : EccMark) : (s.setTcmMark a m).rfEcc = s.rfEcc := rfl
@[simp] theorem State.setTcmMark_wbError (s : State) (a : Nat) (m : EccMark) : (s.setTcmMark a m).wbError = s.wbError := rfl
@[simp] theorem State.setTcmMark_eccBus (s : State) (a : Nat) (m : EccMark) : (s.setTcmMark a m).eccBus = s.eccBus := rfl
@[simp] theorem State.setTcmMark_customState (s : State) (a : Nat) (m : EccMark) : (s.setTcmMark a m).customState = s.customState := rfl
@[simp] theorem State.setTcmMark_draws (s : State) (a : Nat) (m : EccMark) : (s.setTcmMark a m).draws = s.draws := rfl

/-! ## setDline -/

@[simp] theorem State.setDline_dcache (s : State) (i : Nat) (l : CacheLine) : (s.setDline i l).dcache = s.dcache.set i l := rfl
@[simp] theorem State.setDline_cfg (s : State) (i : Nat) (l : CacheLine) : (s.setDline i l).cfg = s.cfg := rfl
@[simp] theorem State.setDline_pc (s : State) (i : Nat) (l : CacheLine) : (s.setDline i l).pc = s.pc := rfl
@[simp] theorem State.setDline_gpr (s : State) (i : Nat) (l : CacheLine) : (s.setDline i l).gpr = s.gpr := rfl
@[simp] theorem State.setDline_shadow (s : State) (i : Nat) (l : CacheLine) : (s.setDline i l).shadow = s.shadow := rfl
@[simp] theorem State.setDline_status (s : State) (i : Nat) (l : CacheLine) : (s.setDline i l).status = s.status := rfl
@[simp] theorem State.setDline_estatus (s : State) (i : Nat) (l : CacheLine) : (s.setDline i l).estatus = s.estatus := rfl
@[simp] theorem State.setDline_bstatus (s : State) (i : Nat) (l : CacheLine) : (s.setDline i l).bstatus = s.bstatus := rfl
@[simp] theorem State.setDline_ienable (s : State) (i : Nat) (l : CacheLine) : (s.setDline i l).ienable = s.ienable := rfl
@[simp] theorem State.setDline_exception (s : State) (i : Nat) (l : CacheLine) : (s.setDline i l).exception = s.exception := rfl
@[simp] theorem State.setDline_pteaddr (s : State) (i : Nat) (l : CacheLine) : (s.setDline i l).pteaddr = s.pteaddr := rfl
@[simp] theorem State.setDline_tlbacc (s : State) (i : Nat) (l : CacheLine) : (s.setDline i l).tlbacc = s.tlbacc := rfl
@[simp] theorem State.setDline_tlbmisc (s : State) (i : Nat) (l : CacheLine) : (s.setDline i l).tlbmisc = s.tlbmisc := rfl
@[simp] theorem State.setDline_eccinj (s : State) (i : Nat) (l : CacheLine) : (s.setDline i l).eccinj = s.eccinj := rfl
@[simp] theorem State.setDline_eccinjOld (s : State) (i : Nat) (l : CacheLine) : (s.setDline i l).eccinjOld = s.eccinjOld := rfl
@[simp] theorem State.setDline_badaddr (s : State) (i : Nat) (l : CacheLine) : (s.setDline i l).badaddr = s.badaddr := rfl
@[simp] theorem State.setDline_config (s : State) (i : Nat) (l : CacheLine) : (s.setDline i l).config = s.config := rfl
@[simp] theorem State.setDline_mpubase (s : State) (i : Nat) (l : CacheLine) : (s.setDline i l).mpubase = s.mpubase := rfl
@[simp] theorem State.setDline_mpuacc (s : State) (i : Nat) (l : CacheLine) : (s.setDline i l).mpuacc = s.mpuacc := rfl
@[simp] theorem State.setDline_tlb (s : State) (i : Nat) (l : CacheLine) : (s.setDline i l).tlb = s.tlb := rfl
@[simp] theorem State.setDline_iregions (s : State) (i : Nat) (l : CacheLine) : (s.setDline i l).iregions = s.iregions := rfl
@[simp] theorem State.setDline_dregions (s : State) (i : Nat) (l : CacheLine) : (s.setDline i l).dregions = s.dregions := rfl
@[simp] theorem State.setDline_icache (s : State) (i : Nat) (l : CacheLine) : (s.setDline i l).icache = s.icache := rfl
@[simp] theorem State.setDline_prefetched (s : State) (i : Nat) (l : CacheLine) : (s.setDline i l).prefetched = s.prefetched := rfl
@[simp] theorem State.setDline_readAhead (s : State) (i : Nat) (l : CacheLine) : (s.setDline i l).readAhead = s.readAhead := rfl
@[simp] theorem State.setDline_mem (s : State) (i : Nat) (l : CacheLine) : (s.setDline i l).mem = s.mem := rfl
@[simp] theorem State.setDline_irq (s : State) (i : Nat) (l : CacheLine) : (s.setDline i l).irq = s.irq := rfl
@[simp] theorem State.setDline_eic (s : State) (i : Nat) (l : CacheLine) : (s.setDline i l).eic = s.eic := rfl
@[simp] theorem State.setDline_resetPin (s : State) (i : Nat) (l : CacheLine) : (s.setDline i l).resetPin = s.resetPin := rfl
@[simp] theorem State.setDline_cpuResetRequest (s : State) (i : Nat) (l : CacheLine) : (s.setDline i l).cpuResetRequest = s.cpuResetRequest := rfl
@[simp] theorem State.setDline_resetReq (s : State) (i : Nat) (l : CacheLine) : (s.setDline i l).resetReq = s.resetReq := rfl
@[simp] theorem State.setDline_hwBreak (s : State) (i : Nat) (l : CacheLine) : (s.setDline i l).hwBreak = s.hwBreak := rfl
@[simp] theorem State.setDline_debugReq (s : State) (i : Nat) (l : CacheLine) : (s.setDline i l).debugReq = s.debugReq := rfl
@[simp] theorem State.setDline_debugMode (s : State) (i : Nat) (l : CacheLine) : (s.setDline i l).debugMode = s.debugMode := rfl
@[simp] theorem State.setDline_rfEcc (s : State) (i : Nat) (l : CacheLine) : (s.setDline i l).rfEcc = s.rfEcc := rfl
@[simp] theorem State.setDline_tcmEcc (s : State) (i : Nat) (l : CacheLine) : (s.setDline i l).tcmEcc = s.tcmEcc := rfl
@[simp] theorem State.setDline_wbError (s : State) (i : Nat) (l : CacheLine) : (s.setDline i l).wbError = s.wbError := rfl
@[simp] theorem State.setDline_eccBus (s : State) (i : Nat) (l : CacheLine) : (s.setDline i l).eccBus = s.eccBus := rfl
@[simp] theorem State.setDline_customState (s : State) (i : Nat) (l : CacheLine) : (s.setDline i l).customState = s.customState := rfl
@[simp] theorem State.setDline_draws (s : State) (i : Nat) (l : CacheLine) : (s.setDline i l).draws = s.draws := rfl

/-! ## setIline -/

@[simp] theorem State.setIline_icache (s : State) (i : Nat) (l : CacheLine) : (s.setIline i l).icache = s.icache.set i l := rfl
@[simp] theorem State.setIline_cfg (s : State) (i : Nat) (l : CacheLine) : (s.setIline i l).cfg = s.cfg := rfl
@[simp] theorem State.setIline_pc (s : State) (i : Nat) (l : CacheLine) : (s.setIline i l).pc = s.pc := rfl
@[simp] theorem State.setIline_gpr (s : State) (i : Nat) (l : CacheLine) : (s.setIline i l).gpr = s.gpr := rfl
@[simp] theorem State.setIline_shadow (s : State) (i : Nat) (l : CacheLine) : (s.setIline i l).shadow = s.shadow := rfl
@[simp] theorem State.setIline_status (s : State) (i : Nat) (l : CacheLine) : (s.setIline i l).status = s.status := rfl
@[simp] theorem State.setIline_estatus (s : State) (i : Nat) (l : CacheLine) : (s.setIline i l).estatus = s.estatus := rfl
@[simp] theorem State.setIline_bstatus (s : State) (i : Nat) (l : CacheLine) : (s.setIline i l).bstatus = s.bstatus := rfl
@[simp] theorem State.setIline_ienable (s : State) (i : Nat) (l : CacheLine) : (s.setIline i l).ienable = s.ienable := rfl
@[simp] theorem State.setIline_exception (s : State) (i : Nat) (l : CacheLine) : (s.setIline i l).exception = s.exception := rfl
@[simp] theorem State.setIline_pteaddr (s : State) (i : Nat) (l : CacheLine) : (s.setIline i l).pteaddr = s.pteaddr := rfl
@[simp] theorem State.setIline_tlbacc (s : State) (i : Nat) (l : CacheLine) : (s.setIline i l).tlbacc = s.tlbacc := rfl
@[simp] theorem State.setIline_tlbmisc (s : State) (i : Nat) (l : CacheLine) : (s.setIline i l).tlbmisc = s.tlbmisc := rfl
@[simp] theorem State.setIline_eccinj (s : State) (i : Nat) (l : CacheLine) : (s.setIline i l).eccinj = s.eccinj := rfl
@[simp] theorem State.setIline_eccinjOld (s : State) (i : Nat) (l : CacheLine) : (s.setIline i l).eccinjOld = s.eccinjOld := rfl
@[simp] theorem State.setIline_badaddr (s : State) (i : Nat) (l : CacheLine) : (s.setIline i l).badaddr = s.badaddr := rfl
@[simp] theorem State.setIline_config (s : State) (i : Nat) (l : CacheLine) : (s.setIline i l).config = s.config := rfl
@[simp] theorem State.setIline_mpubase (s : State) (i : Nat) (l : CacheLine) : (s.setIline i l).mpubase = s.mpubase := rfl
@[simp] theorem State.setIline_mpuacc (s : State) (i : Nat) (l : CacheLine) : (s.setIline i l).mpuacc = s.mpuacc := rfl
@[simp] theorem State.setIline_tlb (s : State) (i : Nat) (l : CacheLine) : (s.setIline i l).tlb = s.tlb := rfl
@[simp] theorem State.setIline_iregions (s : State) (i : Nat) (l : CacheLine) : (s.setIline i l).iregions = s.iregions := rfl
@[simp] theorem State.setIline_dregions (s : State) (i : Nat) (l : CacheLine) : (s.setIline i l).dregions = s.dregions := rfl
@[simp] theorem State.setIline_dcache (s : State) (i : Nat) (l : CacheLine) : (s.setIline i l).dcache = s.dcache := rfl
@[simp] theorem State.setIline_readAhead (s : State) (i : Nat) (l : CacheLine) : (s.setIline i l).readAhead = s.readAhead := rfl
@[simp] theorem State.setIline_mem (s : State) (i : Nat) (l : CacheLine) : (s.setIline i l).mem = s.mem := rfl
@[simp] theorem State.setIline_irq (s : State) (i : Nat) (l : CacheLine) : (s.setIline i l).irq = s.irq := rfl
@[simp] theorem State.setIline_eic (s : State) (i : Nat) (l : CacheLine) : (s.setIline i l).eic = s.eic := rfl
@[simp] theorem State.setIline_resetPin (s : State) (i : Nat) (l : CacheLine) : (s.setIline i l).resetPin = s.resetPin := rfl
@[simp] theorem State.setIline_cpuResetRequest (s : State) (i : Nat) (l : CacheLine) : (s.setIline i l).cpuResetRequest = s.cpuResetRequest := rfl
@[simp] theorem State.setIline_resetReq (s : State) (i : Nat) (l : CacheLine) : (s.setIline i l).resetReq = s.resetReq := rfl
@[simp] theorem State.setIline_hwBreak (s : State) (i : Nat) (l : CacheLine) : (s.setIline i l).hwBreak = s.hwBreak := rfl
@[simp] theorem State.setIline_debugReq (s : State) (i : Nat) (l : CacheLine) : (s.setIline i l).debugReq = s.debugReq := rfl
@[simp] theorem State.setIline_debugMode (s : State) (i : Nat) (l : CacheLine) : (s.setIline i l).debugMode = s.debugMode := rfl
@[simp] theorem State.setIline_rfEcc (s : State) (i : Nat) (l : CacheLine) : (s.setIline i l).rfEcc = s.rfEcc := rfl
@[simp] theorem State.setIline_tcmEcc (s : State) (i : Nat) (l : CacheLine) : (s.setIline i l).tcmEcc = s.tcmEcc := rfl
@[simp] theorem State.setIline_wbError (s : State) (i : Nat) (l : CacheLine) : (s.setIline i l).wbError = s.wbError := rfl
@[simp] theorem State.setIline_eccBus (s : State) (i : Nat) (l : CacheLine) : (s.setIline i l).eccBus = s.eccBus := rfl
@[simp] theorem State.setIline_customState (s : State) (i : Nat) (l : CacheLine) : (s.setIline i l).customState = s.customState := rfl
@[simp] theorem State.setIline_draws (s : State) (i : Nat) (l : CacheLine) : (s.setIline i l).draws = s.draws := rfl

/-! ## aheadFlushed -/

@[simp] theorem State.aheadFlushed_cfg (s : State) (i : Nat) : (s.aheadFlushed i).cfg = s.cfg := rfl
@[simp] theorem State.aheadFlushed_pc (s : State) (i : Nat) : (s.aheadFlushed i).pc = s.pc := rfl
@[simp] theorem State.aheadFlushed_gpr (s : State) (i : Nat) : (s.aheadFlushed i).gpr = s.gpr := rfl
@[simp] theorem State.aheadFlushed_shadow (s : State) (i : Nat) : (s.aheadFlushed i).shadow = s.shadow := rfl
@[simp] theorem State.aheadFlushed_status (s : State) (i : Nat) : (s.aheadFlushed i).status = s.status := rfl
@[simp] theorem State.aheadFlushed_estatus (s : State) (i : Nat) : (s.aheadFlushed i).estatus = s.estatus := rfl
@[simp] theorem State.aheadFlushed_bstatus (s : State) (i : Nat) : (s.aheadFlushed i).bstatus = s.bstatus := rfl
@[simp] theorem State.aheadFlushed_ienable (s : State) (i : Nat) : (s.aheadFlushed i).ienable = s.ienable := rfl
@[simp] theorem State.aheadFlushed_exception (s : State) (i : Nat) : (s.aheadFlushed i).exception = s.exception := rfl
@[simp] theorem State.aheadFlushed_pteaddr (s : State) (i : Nat) : (s.aheadFlushed i).pteaddr = s.pteaddr := rfl
@[simp] theorem State.aheadFlushed_tlbacc (s : State) (i : Nat) : (s.aheadFlushed i).tlbacc = s.tlbacc := rfl
@[simp] theorem State.aheadFlushed_tlbmisc (s : State) (i : Nat) : (s.aheadFlushed i).tlbmisc = s.tlbmisc := rfl
@[simp] theorem State.aheadFlushed_eccinj (s : State) (i : Nat) : (s.aheadFlushed i).eccinj = s.eccinj := rfl
@[simp] theorem State.aheadFlushed_eccinjOld (s : State) (i : Nat) : (s.aheadFlushed i).eccinjOld = s.eccinjOld := rfl
@[simp] theorem State.aheadFlushed_badaddr (s : State) (i : Nat) : (s.aheadFlushed i).badaddr = s.badaddr := rfl
@[simp] theorem State.aheadFlushed_config (s : State) (i : Nat) : (s.aheadFlushed i).config = s.config := rfl
@[simp] theorem State.aheadFlushed_mpubase (s : State) (i : Nat) : (s.aheadFlushed i).mpubase = s.mpubase := rfl
@[simp] theorem State.aheadFlushed_mpuacc (s : State) (i : Nat) : (s.aheadFlushed i).mpuacc = s.mpuacc := rfl
@[simp] theorem State.aheadFlushed_tlb (s : State) (i : Nat) : (s.aheadFlushed i).tlb = s.tlb := rfl
@[simp] theorem State.aheadFlushed_iregions (s : State) (i : Nat) : (s.aheadFlushed i).iregions = s.iregions := rfl
@[simp] theorem State.aheadFlushed_dregions (s : State) (i : Nat) : (s.aheadFlushed i).dregions = s.dregions := rfl
@[simp] theorem State.aheadFlushed_icache (s : State) (i : Nat) : (s.aheadFlushed i).icache = s.icache := rfl
@[simp] theorem State.aheadFlushed_dcache (s : State) (i : Nat) : (s.aheadFlushed i).dcache = s.dcache := rfl
@[simp] theorem State.aheadFlushed_mem (s : State) (i : Nat) : (s.aheadFlushed i).mem = s.mem := rfl
@[simp] theorem State.aheadFlushed_irq (s : State) (i : Nat) : (s.aheadFlushed i).irq = s.irq := rfl
@[simp] theorem State.aheadFlushed_eic (s : State) (i : Nat) : (s.aheadFlushed i).eic = s.eic := rfl
@[simp] theorem State.aheadFlushed_resetPin (s : State) (i : Nat) : (s.aheadFlushed i).resetPin = s.resetPin := rfl
@[simp] theorem State.aheadFlushed_cpuResetRequest (s : State) (i : Nat) : (s.aheadFlushed i).cpuResetRequest = s.cpuResetRequest := rfl
@[simp] theorem State.aheadFlushed_resetReq (s : State) (i : Nat) : (s.aheadFlushed i).resetReq = s.resetReq := rfl
@[simp] theorem State.aheadFlushed_hwBreak (s : State) (i : Nat) : (s.aheadFlushed i).hwBreak = s.hwBreak := rfl
@[simp] theorem State.aheadFlushed_debugReq (s : State) (i : Nat) : (s.aheadFlushed i).debugReq = s.debugReq := rfl
@[simp] theorem State.aheadFlushed_debugMode (s : State) (i : Nat) : (s.aheadFlushed i).debugMode = s.debugMode := rfl
@[simp] theorem State.aheadFlushed_rfEcc (s : State) (i : Nat) : (s.aheadFlushed i).rfEcc = s.rfEcc := rfl
@[simp] theorem State.aheadFlushed_tcmEcc (s : State) (i : Nat) : (s.aheadFlushed i).tcmEcc = s.tcmEcc := rfl
@[simp] theorem State.aheadFlushed_wbError (s : State) (i : Nat) : (s.aheadFlushed i).wbError = s.wbError := rfl
@[simp] theorem State.aheadFlushed_eccBus (s : State) (i : Nat) : (s.aheadFlushed i).eccBus = s.eccBus := rfl
@[simp] theorem State.aheadFlushed_customState (s : State) (i : Nat) : (s.aheadFlushed i).customState = s.customState := rfl
@[simp] theorem State.aheadFlushed_draws (s : State) (i : Nat) : (s.aheadFlushed i).draws = s.draws := rfl

/-! ## keepPrefetched, and what is built on it -/

@[simp] theorem State.keepPrefetched_cfg (s t : State) (ks : List Nat) : (s.keepPrefetched t ks).cfg = t.cfg := by
  unfold State.keepPrefetched
  split <;> rfl
@[simp] theorem State.keepPrefetched_pc (s t : State) (ks : List Nat) : (s.keepPrefetched t ks).pc = t.pc := by
  unfold State.keepPrefetched
  split <;> rfl
@[simp] theorem State.keepPrefetched_gpr (s t : State) (ks : List Nat) : (s.keepPrefetched t ks).gpr = t.gpr := by
  unfold State.keepPrefetched
  split <;> rfl
@[simp] theorem State.keepPrefetched_shadow (s t : State) (ks : List Nat) : (s.keepPrefetched t ks).shadow = t.shadow := by
  unfold State.keepPrefetched
  split <;> rfl
@[simp] theorem State.keepPrefetched_status (s t : State) (ks : List Nat) : (s.keepPrefetched t ks).status = t.status := by
  unfold State.keepPrefetched
  split <;> rfl
@[simp] theorem State.keepPrefetched_estatus (s t : State) (ks : List Nat) : (s.keepPrefetched t ks).estatus = t.estatus := by
  unfold State.keepPrefetched
  split <;> rfl
@[simp] theorem State.keepPrefetched_bstatus (s t : State) (ks : List Nat) : (s.keepPrefetched t ks).bstatus = t.bstatus := by
  unfold State.keepPrefetched
  split <;> rfl
@[simp] theorem State.keepPrefetched_ienable (s t : State) (ks : List Nat) : (s.keepPrefetched t ks).ienable = t.ienable := by
  unfold State.keepPrefetched
  split <;> rfl
@[simp] theorem State.keepPrefetched_exception (s t : State) (ks : List Nat) : (s.keepPrefetched t ks).exception = t.exception := by
  unfold State.keepPrefetched
  split <;> rfl
@[simp] theorem State.keepPrefetched_pteaddr (s t : State) (ks : List Nat) : (s.keepPrefetched t ks).pteaddr = t.pteaddr := by
  unfold State.keepPrefetched
  split <;> rfl
@[simp] theorem State.keepPrefetched_tlbacc (s t : State) (ks : List Nat) : (s.keepPrefetched t ks).tlbacc = t.tlbacc := by
  unfold State.keepPrefetched
  split <;> rfl
@[simp] theorem State.keepPrefetched_tlbmisc (s t : State) (ks : List Nat) : (s.keepPrefetched t ks).tlbmisc = t.tlbmisc := by
  unfold State.keepPrefetched
  split <;> rfl
@[simp] theorem State.keepPrefetched_eccinj (s t : State) (ks : List Nat) : (s.keepPrefetched t ks).eccinj = t.eccinj := by
  unfold State.keepPrefetched
  split <;> rfl
@[simp] theorem State.keepPrefetched_eccinjOld (s t : State) (ks : List Nat) : (s.keepPrefetched t ks).eccinjOld = t.eccinjOld := by
  unfold State.keepPrefetched
  split <;> rfl
@[simp] theorem State.keepPrefetched_badaddr (s t : State) (ks : List Nat) : (s.keepPrefetched t ks).badaddr = t.badaddr := by
  unfold State.keepPrefetched
  split <;> rfl
@[simp] theorem State.keepPrefetched_config (s t : State) (ks : List Nat) : (s.keepPrefetched t ks).config = t.config := by
  unfold State.keepPrefetched
  split <;> rfl
@[simp] theorem State.keepPrefetched_mpubase (s t : State) (ks : List Nat) : (s.keepPrefetched t ks).mpubase = t.mpubase := by
  unfold State.keepPrefetched
  split <;> rfl
@[simp] theorem State.keepPrefetched_mpuacc (s t : State) (ks : List Nat) : (s.keepPrefetched t ks).mpuacc = t.mpuacc := by
  unfold State.keepPrefetched
  split <;> rfl
@[simp] theorem State.keepPrefetched_tlb (s t : State) (ks : List Nat) : (s.keepPrefetched t ks).tlb = t.tlb := by
  unfold State.keepPrefetched
  split <;> rfl
@[simp] theorem State.keepPrefetched_iregions (s t : State) (ks : List Nat) : (s.keepPrefetched t ks).iregions = t.iregions := by
  unfold State.keepPrefetched
  split <;> rfl
@[simp] theorem State.keepPrefetched_dregions (s t : State) (ks : List Nat) : (s.keepPrefetched t ks).dregions = t.dregions := by
  unfold State.keepPrefetched
  split <;> rfl
@[simp] theorem State.keepPrefetched_icache (s t : State) (ks : List Nat) : (s.keepPrefetched t ks).icache = t.icache := by
  unfold State.keepPrefetched
  split <;> rfl
@[simp] theorem State.keepPrefetched_dcache (s t : State) (ks : List Nat) : (s.keepPrefetched t ks).dcache = t.dcache := by
  unfold State.keepPrefetched
  split <;> rfl
@[simp] theorem State.keepPrefetched_mem (s t : State) (ks : List Nat) : (s.keepPrefetched t ks).mem = t.mem := by
  unfold State.keepPrefetched
  split <;> rfl
@[simp] theorem State.keepPrefetched_irq (s t : State) (ks : List Nat) : (s.keepPrefetched t ks).irq = t.irq := by
  unfold State.keepPrefetched
  split <;> rfl
@[simp] theorem State.keepPrefetched_eic (s t : State) (ks : List Nat) : (s.keepPrefetched t ks).eic = t.eic := by
  unfold State.keepPrefetched
  split <;> rfl
@[simp] theorem State.keepPrefetched_resetPin (s t : State) (ks : List Nat) : (s.keepPrefetched t ks).resetPin = t.resetPin := by
  unfold State.keepPrefetched
  split <;> rfl
@[simp] theorem State.keepPrefetched_cpuResetRequest (s t : State) (ks : List Nat) : (s.keepPrefetched t ks).cpuResetRequest = t.cpuResetRequest := by
  unfold State.keepPrefetched
  split <;> rfl
@[simp] theorem State.keepPrefetched_resetReq (s t : State) (ks : List Nat) : (s.keepPrefetched t ks).resetReq = t.resetReq := by
  unfold State.keepPrefetched
  split <;> rfl
@[simp] theorem State.keepPrefetched_hwBreak (s t : State) (ks : List Nat) : (s.keepPrefetched t ks).hwBreak = t.hwBreak := by
  unfold State.keepPrefetched
  split <;> rfl
@[simp] theorem State.keepPrefetched_debugReq (s t : State) (ks : List Nat) : (s.keepPrefetched t ks).debugReq = t.debugReq := by
  unfold State.keepPrefetched
  split <;> rfl
@[simp] theorem State.keepPrefetched_debugMode (s t : State) (ks : List Nat) : (s.keepPrefetched t ks).debugMode = t.debugMode := by
  unfold State.keepPrefetched
  split <;> rfl
@[simp] theorem State.keepPrefetched_rfEcc (s t : State) (ks : List Nat) : (s.keepPrefetched t ks).rfEcc = t.rfEcc := by
  unfold State.keepPrefetched
  split <;> rfl
@[simp] theorem State.keepPrefetched_tcmEcc (s t : State) (ks : List Nat) : (s.keepPrefetched t ks).tcmEcc = t.tcmEcc := by
  unfold State.keepPrefetched
  split <;> rfl
@[simp] theorem State.keepPrefetched_wbError (s t : State) (ks : List Nat) : (s.keepPrefetched t ks).wbError = t.wbError := by
  unfold State.keepPrefetched
  split <;> rfl
@[simp] theorem State.keepPrefetched_eccBus (s t : State) (ks : List Nat) : (s.keepPrefetched t ks).eccBus = t.eccBus := by
  unfold State.keepPrefetched
  split <;> rfl
@[simp] theorem State.keepPrefetched_customState (s t : State) (ks : List Nat) : (s.keepPrefetched t ks).customState = t.customState := by
  unfold State.keepPrefetched
  split <;> rfl
@[simp] theorem State.keepPrefetched_draws (s t : State) (ks : List Nat) : (s.keepPrefetched t ks).draws = t.draws := by
  unfold State.keepPrefetched
  split <;> rfl

@[simp] theorem State.busWriteTo_cfg (s : State) (ram marks a bs) : (State.busWriteTo ram marks s a bs).cfg = s.cfg :=
  State.keepPrefetched_cfg _ _ _
@[simp] theorem State.busWriteTo_pc (s : State) (ram marks a bs) : (State.busWriteTo ram marks s a bs).pc = s.pc :=
  State.keepPrefetched_pc _ _ _
@[simp] theorem State.busWriteTo_gpr (s : State) (ram marks a bs) : (State.busWriteTo ram marks s a bs).gpr = s.gpr :=
  State.keepPrefetched_gpr _ _ _
@[simp] theorem State.busWriteTo_shadow (s : State) (ram marks a bs) : (State.busWriteTo ram marks s a bs).shadow = s.shadow :=
  State.keepPrefetched_shadow _ _ _
@[simp] theorem State.busWriteTo_status (s : State) (ram marks a bs) : (State.busWriteTo ram marks s a bs).status = s.status :=
  State.keepPrefetched_status _ _ _
@[simp] theorem State.busWriteTo_estatus (s : State) (ram marks a bs) : (State.busWriteTo ram marks s a bs).estatus = s.estatus :=
  State.keepPrefetched_estatus _ _ _
@[simp] theorem State.busWriteTo_bstatus (s : State) (ram marks a bs) : (State.busWriteTo ram marks s a bs).bstatus = s.bstatus :=
  State.keepPrefetched_bstatus _ _ _
@[simp] theorem State.busWriteTo_ienable (s : State) (ram marks a bs) : (State.busWriteTo ram marks s a bs).ienable = s.ienable :=
  State.keepPrefetched_ienable _ _ _
@[simp] theorem State.busWriteTo_exception (s : State) (ram marks a bs) : (State.busWriteTo ram marks s a bs).exception = s.exception :=
  State.keepPrefetched_exception _ _ _
@[simp] theorem State.busWriteTo_pteaddr (s : State) (ram marks a bs) : (State.busWriteTo ram marks s a bs).pteaddr = s.pteaddr :=
  State.keepPrefetched_pteaddr _ _ _
@[simp] theorem State.busWriteTo_tlbacc (s : State) (ram marks a bs) : (State.busWriteTo ram marks s a bs).tlbacc = s.tlbacc :=
  State.keepPrefetched_tlbacc _ _ _
@[simp] theorem State.busWriteTo_tlbmisc (s : State) (ram marks a bs) : (State.busWriteTo ram marks s a bs).tlbmisc = s.tlbmisc :=
  State.keepPrefetched_tlbmisc _ _ _
@[simp] theorem State.busWriteTo_eccinj (s : State) (ram marks a bs) : (State.busWriteTo ram marks s a bs).eccinj = s.eccinj :=
  State.keepPrefetched_eccinj _ _ _
@[simp] theorem State.busWriteTo_eccinjOld (s : State) (ram marks a bs) : (State.busWriteTo ram marks s a bs).eccinjOld = s.eccinjOld :=
  State.keepPrefetched_eccinjOld _ _ _
@[simp] theorem State.busWriteTo_badaddr (s : State) (ram marks a bs) : (State.busWriteTo ram marks s a bs).badaddr = s.badaddr :=
  State.keepPrefetched_badaddr _ _ _
@[simp] theorem State.busWriteTo_config (s : State) (ram marks a bs) : (State.busWriteTo ram marks s a bs).config = s.config :=
  State.keepPrefetched_config _ _ _
@[simp] theorem State.busWriteTo_mpubase (s : State) (ram marks a bs) : (State.busWriteTo ram marks s a bs).mpubase = s.mpubase :=
  State.keepPrefetched_mpubase _ _ _
@[simp] theorem State.busWriteTo_mpuacc (s : State) (ram marks a bs) : (State.busWriteTo ram marks s a bs).mpuacc = s.mpuacc :=
  State.keepPrefetched_mpuacc _ _ _
@[simp] theorem State.busWriteTo_tlb (s : State) (ram marks a bs) : (State.busWriteTo ram marks s a bs).tlb = s.tlb :=
  State.keepPrefetched_tlb _ _ _
@[simp] theorem State.busWriteTo_iregions (s : State) (ram marks a bs) : (State.busWriteTo ram marks s a bs).iregions = s.iregions :=
  State.keepPrefetched_iregions _ _ _
@[simp] theorem State.busWriteTo_dregions (s : State) (ram marks a bs) : (State.busWriteTo ram marks s a bs).dregions = s.dregions :=
  State.keepPrefetched_dregions _ _ _
@[simp] theorem State.busWriteTo_icache (s : State) (ram marks a bs) : (State.busWriteTo ram marks s a bs).icache = s.icache :=
  State.keepPrefetched_icache _ _ _
@[simp] theorem State.busWriteTo_dcache (s : State) (ram marks a bs) : (State.busWriteTo ram marks s a bs).dcache = s.dcache :=
  State.keepPrefetched_dcache _ _ _
@[simp] theorem State.busWriteTo_mem (s : State) (ram marks a bs) : (State.busWriteTo ram marks s a bs).mem = busStore ram s.mem a bs :=
  State.keepPrefetched_mem _ _ _
@[simp] theorem State.busWriteTo_irq (s : State) (ram marks a bs) : (State.busWriteTo ram marks s a bs).irq = s.irq :=
  State.keepPrefetched_irq _ _ _
@[simp] theorem State.busWriteTo_eic (s : State) (ram marks a bs) : (State.busWriteTo ram marks s a bs).eic = s.eic :=
  State.keepPrefetched_eic _ _ _
@[simp] theorem State.busWriteTo_resetPin (s : State) (ram marks a bs) : (State.busWriteTo ram marks s a bs).resetPin = s.resetPin :=
  State.keepPrefetched_resetPin _ _ _
@[simp] theorem State.busWriteTo_cpuResetRequest (s : State) (ram marks a bs) : (State.busWriteTo ram marks s a bs).cpuResetRequest = s.cpuResetRequest :=
  State.keepPrefetched_cpuResetRequest _ _ _
@[simp] theorem State.busWriteTo_resetReq (s : State) (ram marks a bs) : (State.busWriteTo ram marks s a bs).resetReq = s.resetReq :=
  State.keepPrefetched_resetReq _ _ _
@[simp] theorem State.busWriteTo_hwBreak (s : State) (ram marks a bs) : (State.busWriteTo ram marks s a bs).hwBreak = s.hwBreak :=
  State.keepPrefetched_hwBreak _ _ _
@[simp] theorem State.busWriteTo_debugReq (s : State) (ram marks a bs) : (State.busWriteTo ram marks s a bs).debugReq = s.debugReq :=
  State.keepPrefetched_debugReq _ _ _
@[simp] theorem State.busWriteTo_debugMode (s : State) (ram marks a bs) : (State.busWriteTo ram marks s a bs).debugMode = s.debugMode :=
  State.keepPrefetched_debugMode _ _ _
@[simp] theorem State.busWriteTo_rfEcc (s : State) (ram marks a bs) : (State.busWriteTo ram marks s a bs).rfEcc = s.rfEcc :=
  State.keepPrefetched_rfEcc _ _ _
@[simp] theorem State.busWriteTo_tcmEcc (s : State) (ram marks a bs) : (State.busWriteTo ram marks s a bs).tcmEcc = marks :=
  State.keepPrefetched_tcmEcc _ _ _
@[simp] theorem State.busWriteTo_wbError (s : State) (ram marks a bs) : (State.busWriteTo ram marks s a bs).wbError = s.wbError :=
  State.keepPrefetched_wbError _ _ _
@[simp] theorem State.busWriteTo_eccBus (s : State) (ram marks a bs) : (State.busWriteTo ram marks s a bs).eccBus = s.eccBus :=
  State.keepPrefetched_eccBus _ _ _
@[simp] theorem State.busWriteTo_customState (s : State) (ram marks a bs) : (State.busWriteTo ram marks s a bs).customState = s.customState :=
  State.keepPrefetched_customState _ _ _
@[simp] theorem State.busWriteTo_draws (s : State) (ram marks a bs) : (State.busWriteTo ram marks s a bs).draws = s.draws :=
  State.keepPrefetched_draws _ _ _

/-- A store of the data master writes what the data side has memory for. -/
@[simp] theorem State.busWrite_eq (s : State) (a : Nat) (bs : List Byte) :
    s.busWrite a bs = State.busWriteTo s.cfg.dataRam (s.marksWritten a bs.length) s a bs := rfl

/-- A write-back writes what no tightly-coupled memory holds. -/
@[simp] theorem State.lineWrite_eq (s : State) (a : Nat) (bs : List Byte) :
    s.lineWrite a bs = State.busWriteTo s.cfg.dlineRam s.tcmEcc s a bs := rfl

end Sys2Proof.Machine
end

