-- ==== Sys2Proof/Laws/Memory.lean ====
section
/-! SUPPORT. The laws of memory and of the other sparse tables: a read after a write, and that every operation keeps the
canonical form. -/

namespace Sys2Proof

variable {α : Type} [DecidableEq α]

/-- A key below every key of a canonical list holds the default. -/
theorem sparseGet_of_lt (d : α) (m : List (Nat × α)) (k : Nat) (h : ∀ e ∈ m, k < e.1) : sparseGet d m k = d := by
  induction m with
  | nil => rfl
  | cons e m ih =>
    have h1 : k < e.1 := h e (by simp)
    have h2 : ¬ k = e.1 := by omega
    simp only [sparseGet, h2, if_false]
    exact ih fun e' h' => h e' (by simp [h'])

/-- What a canonical list is, in terms of its head. -/
theorem sparseWf_cons (d : α) (e : Nat × α) (m : List (Nat × α)) :
    sparseWf d (e :: m) = true ↔ e.2 ≠ d ∧ (∀ e' ∈ m, e.1 < e'.1) ∧ sparseWf d m = true := by
  simp [sparseWf, List.all_eq_true, and_assoc]

/-- Writing a key adds no other key. -/
theorem mem_sparseSet (d : α) (m : List (Nat × α)) (k : Nat) (v : α) :
    ∀ e ∈ sparseSet d m k v, e = (k, v) ∨ e ∈ m := by
  induction m with
  | nil =>
    intro e he
    simp only [sparseSet] at he
    split at he
    · simp at he
    · simp at he
      exact .inl he
  | cons h m ih =>
    intro e he
    simp only [sparseSet] at he
    split at he
    · split at he
      · exact .inr he
      · rcases List.mem_cons.1 he with rfl | h'
        · exact .inl rfl
        · exact .inr h'
    · split at he
      · split at he
        · exact .inr (List.mem_cons_of_mem _ he)
        · rcases List.mem_cons.1 he with rfl | h'
          · exact .inl rfl
          · exact .inr (List.mem_cons_of_mem _ h')
      · rcases List.mem_cons.1 he with rfl | h'
        · exact .inr (by simp)
        · rcases ih e h' with rfl | h''
          · exact .inl rfl
          · exact .inr (List.mem_cons_of_mem _ h'')

/-- A write keeps the canonical form. -/
theorem sparseSet_wf (d : α) (m : List (Nat × α)) (k : Nat) (v : α) (h : sparseWf d m = true) :
    sparseWf d (sparseSet d m k v) = true := by
  induction m with
  | nil =>
    simp only [sparseSet]
    split
    · rfl
    · next hv => simp [sparseWf, hv]
  | cons e m ih =>
    obtain ⟨h1, h2, h3⟩ := (sparseWf_cons d e m).1 h
    simp only [sparseSet]
    split
    · next hk =>
      split
      · exact h
      · next hv =>
        refine (sparseWf_cons d _ _).2 ⟨hv, ?_, h⟩
        intro e' he'
        rcases List.mem_cons.1 he' with rfl | h'
        · exact hk
        · exact Nat.lt_trans hk (h2 e' h')
    · split
      · next hk1 hk2 =>
        split
        · exact h3
        · next hv => exact (sparseWf_cons d _ _).2 ⟨hv, by simpa [hk2] using h2, h3⟩
      · next hk1 hk2 =>
        refine (sparseWf_cons d _ _).2 ⟨h1, ?_, ih h3⟩
        intro e' he'
        rcases mem_sparseSet d m k v e' he' with rfl | h'
        · simp only; omega
        · exact h2 e' h'

/-- A read after a write to the same key gives the value written. -/
theorem sparseGet_set_same (d : α) (m : List (Nat × α)) (k : Nat) (v : α) (h : sparseWf d m = true) :
    sparseGet d (sparseSet d m k v) k = v := by
  induction m with
  | nil =>
    simp only [sparseSet]
    split
    · next hv => simp [sparseGet, hv]
    · simp [sparseGet]
  | cons e m ih =>
    obtain ⟨h1, h2, h3⟩ := (sparseWf_cons d e m).1 h
    simp only [sparseSet]
    split
    · next hk =>
      split
      · next hv =>
        rw [hv]
        refine sparseGet_of_lt d _ k fun e' he' => ?_
        rcases List.mem_cons.1 he' with rfl | h'
        · exact hk
        · exact Nat.lt_trans hk (h2 e' h')
      · simp [sparseGet]
    · split
      · next hk1 hk2 =>
        split
        · next hv =>
          rw [hv]
          exact sparseGet_of_lt d _ k fun e' he' => by have := h2 e' he'; omega
        · simp [sparseGet]
      · next hk1 hk2 => simp [sparseGet, hk2, ih h3]

/-- A key holds what was put there, whatever the list, if that is not the default. -/
theorem sparseGet_set_value (d : α) (m : List (Nat × α)) (k : Nat) (v : α) (hv : v ≠ d) :
    sparseGet d (sparseSet d m k v) k = v := by
  induction m with
  | nil => simp [sparseSet, sparseGet, hv]
  | cons e m ih =>
    obtain ⟨j, w⟩ := e
    unfold sparseSet
    by_cases h1 : k < j
    · simp [h1, hv, sparseGet]
    · by_cases h2 : k = j
      · simp [h2, hv, sparseGet]
      · simp [h1, h2, sparseGet, ih]

/-- A write leaves every other key alone. -/
theorem sparseGet_set_other (d : α) (m : List (Nat × α)) (k j : Nat) (v : α) (hj : j ≠ k) :
    sparseGet d (sparseSet d m k v) j = sparseGet d m j := by
  induction m with
  | nil =>
    simp only [sparseSet]
    split
    · rfl
    · simp [sparseGet, hj]
  | cons e m ih =>
    simp only [sparseSet]
    split
    · split
      · rfl
      · simp [sparseGet, hj]
    · split
      · next hk1 hk2 =>
        have h' : ¬ j = e.1 := by omega
        split
        · simp [sparseGet, h']
        · simp [sparseGet, hj, h']
      · simp [sparseGet, ih]

/-! ## Memory -/

theorem Memory.read_write_same (m : Memory) (a : Nat) (b : Byte) (h : m.wf = true) : (m.write a b).read a = b :=
  sparseGet_set_same _ m a b h

theorem Memory.read_write_other (m : Memory) (a a' : Nat) (b : Byte) (h : a' ≠ a) :
    (m.write a b).read a' = m.read a' :=
  sparseGet_set_other _ m a a' b h

theorem Memory.write_wf (m : Memory) (a : Nat) (b : Byte) (h : m.wf = true) : (m.write a b).wf = true :=
  sparseSet_wf _ m a b h

theorem Memory.writeBytes_wf (bs : List Byte) (m : Memory) (a : Nat) (h : m.wf = true) :
    (m.writeBytes a bs).wf = true := by
  induction bs generalizing m a with
  | nil => exact h
  | cons b bs ih => exact ih _ _ (m.write_wf a b h)

theorem Memory.read_writeBytes_other (bs : List Byte) (m : Memory) (a a' : Nat) (h : a' < a ∨ a + bs.length ≤ a') :
    (m.writeBytes a bs).read a' = m.read a' := by
  induction bs generalizing m a with
  | nil => rfl
  | cons b bs ih =>
    simp only [List.length_cons] at h
    rw [Memory.writeBytes, ih _ _ (by omega), Memory.read_write_other _ _ _ _ (by omega)]

theorem Memory.foldl_write_wf (cs : List Host.Cell) (m : Memory) (h : m.wf = true) :
    (cs.foldl (fun m c => Memory.write m c.1 c.2) m).wf = true := by
  induction cs generalizing m with
  | nil => exact h
  | cons c cs ih => exact ih _ (Memory.write_wf m c.1 c.2 h)

theorem Memory.ofCells_wf (cs : List Host.Cell) : (Memory.ofCells cs).wf = true := Memory.foldl_write_wf cs [] rfl

namespace Machine

/-! ## The bus -/

theorem busStore_wf (ram : Nat → Bool) (bs : List Byte) (m : Memory) (a : Nat) (h : m.wf = true) :
    (busStore ram m a bs).wf = true := by
  induction bs generalizing m a with
  | nil => exact h
  | cons b bs ih =>
    refine ih _ _ ?_
    split
    · exact m.write_wf a b h
    · exact h

/-- A bus write leaves every byte outside its own alone. -/
theorem busStore_other (ram : Nat → Bool) (bs : List Byte) (m : Memory) (a a' : Nat)
    (h : a' < a ∨ a + bs.length ≤ a') : (busStore ram m a bs).read a' = m.read a' := by
  induction bs generalizing m a with
  | nil => rfl
  | cons b bs ih =>
    simp only [List.length_cons] at h
    rw [busStore, ih _ _ (by omega)]
    split
    · exact Memory.read_write_other _ _ _ _ (by omega)
    · rfl

/-- Each byte of a bus write that reaches memory reads back. -/
theorem busStore_same (ram : Nat → Bool) (bs : List Byte) (m : Memory) (a k : Nat) (hm : m.wf = true)
    (hk : k < bs.length) (hr : ram (a + k) = true) : (busStore ram m a bs).read (a + k) = bs[k] := by
  induction bs generalizing m a k with
  | nil => simp at hk
  | cons b bs ih =>
    rw [busStore]
    cases k with
    | zero =>
      rw [busStore_other _ _ _ _ _ (by omega)]
      simp only [Nat.add_zero] at hr ⊢
      rw [if_pos hr, Memory.read_write_same _ _ _ hm]
      rfl
    | succ k =>
      have hw : (if ram a = true then m.write a b else m).wf = true := by
        split
        · exact m.write_wf a b hm
        · exact hm
      have := ih _ (a + 1) k hw (by simpa using hk) (by rw [show a + 1 + k = a + (k + 1) by omega]; exact hr)
      rw [show a + 1 + k = a + (k + 1) by omega] at this
      simpa using this

/-- A byte that does not reach memory is not written. -/
theorem busStore_lost (ram : Nat → Bool) (bs : List Byte) (m : Memory) (a a' : Nat) (hr : ram a' = false) :
    (busStore ram m a bs).read a' = m.read a' := by
  induction bs generalizing m a with
  | nil => rfl
  | cons b bs ih =>
    rw [busStore, ih]
    split
    · next h => exact Memory.read_write_other _ _ _ _ (by rintro rfl; simp [h] at hr)
    · rfl

@[simp] theorem busBytes_length (ram : Nat → Bool) (s : State) (a n : Nat) : (busBytes ram s a n).length = n := by
  simp [busBytes]

@[simp] theorem freeBytes_length (d n : Nat) : (freeBytes d n).length = n := by simp [freeBytes]

/-- A bus read of bytes all in memory gives those bytes. -/
theorem busBytes_ram (ram : Nat → Bool) (s : State) (a n : Nat) (h : ∀ k < n, ram (a + k) = true) :
    busBytes ram s a n = (List.range n).map (fun k => s.mem.read (a + k)) := by
  refine List.map_congr_left fun k hk => ?_
  rw [if_pos (h k (List.mem_range.1 hk))]

/-- A bus read of bytes all in memory uses no free value. -/
theorem busReadState_ram (ram : Nat → Bool) (s : State) (a n : Nat) (h : ∀ k < n, ram (a + k) = true) :
    busReadState ram s a n = s := by
  have : (List.range n).all (fun k => ram (a + k)) = true := by
    simpa [List.all_eq_true] using h
  simp [busReadState, this]

/-! ## The lists of old words -/

/-- Added words leave the canonical form. -/
theorem addWords_wf {β : Type} [DecidableEq β] (new : Nat → List β) (m : List (Nat × List β)) (ks : List Nat)
    (h : sparseWf [] m = true) : sparseWf [] (addWords new m ks) = true := by
  unfold addWords
  induction ks generalizing m with
  | nil => exact h
  | cons k ks ih =>
    rw [List.foldl_cons]
    refine ih _ ?_
    split
    · exact h
    · exact sparseSet_wf _ _ _ _ h

/-- What is among the words at a number after more are added. -/
theorem mem_addWords {β : Type} [DecidableEq β] (new : Nat → List β) (m : List (Nat × List β)) (ks : List Nat) (k : Nat)
    (x : β) : x ∈ sparseGet [] (addWords new m ks) k ↔ x ∈ sparseGet [] m k ∨ (k ∈ ks ∧ x ∈ new k) := by
  unfold addWords
  induction ks generalizing m with
  | nil => simp
  | cons j ks ih =>
    rw [List.foldl_cons, ih]
    by_cases hn : new j = []
    · rw [if_pos hn]
      by_cases hk : k = j
      · subst hk
        simp [hn]
      · simp [hk]
    · rw [if_neg hn]
      by_cases hk : k = j
      · subst hk
        have hv : new k ∪ sparseGet [] m k ≠ [] := by
          obtain ⟨y, hy⟩ := List.exists_mem_of_ne_nil _ hn
          exact List.ne_nil_of_mem (List.mem_union_iff.2 (.inl hy))
        rw [sparseGet_set_value _ _ _ _ hv, List.mem_union_iff]
        simp only [List.mem_cons, true_or, true_and]
        tauto
      · rw [sparseGet_set_other _ _ _ _ _ hk]
        simp [hk]

/-- Words taken out of each list leave the canonical form. -/
theorem foldl_filter_wf {β : Type} [DecidableEq β] (p : β → Bool) (l m : List (Nat × List β)) (h : sparseWf [] m = true) :
    sparseWf [] (l.foldl (fun m e => sparseSet [] m e.1 (e.2.filter p)) m) = true := by
  induction l generalizing m with
  | nil => exact h
  | cons e l ih => exact ih _ (sparseSet_wf _ _ _ _ h)

/-- What is left at a number when words are taken out of each list. -/
theorem foldl_filter_get {β : Type} [DecidableEq β] (p : β → Bool) (l m : List (Nat × List β)) (hl : sparseWf [] l = true)
    (hm : sparseWf [] m = true) (k : Nat) :
    sparseGet [] (l.foldl (fun m e => sparseSet [] m e.1 (e.2.filter p)) m) k =
      if k ∈ l.map Prod.fst then (sparseGet [] l k).filter p else sparseGet [] m k := by
  induction l generalizing m with
  | nil => simp
  | cons e l ih =>
    obtain ⟨-, hlt, hl'⟩ := (sparseWf_cons _ _ _).1 hl
    rw [List.foldl_cons, ih _ hl' (sparseSet_wf _ _ _ _ hm)]
    obtain ⟨j, v⟩ := e
    by_cases hk : k = j
    · subst hk
      have hn : k ∉ l.map Prod.fst := by
        intro hc
        obtain ⟨e, he, rfl⟩ := List.mem_map.1 hc
        exact absurd (hlt e he) (by simp)
      rw [if_neg hn, sparseGet_set_same _ _ _ _ hm]
      simp [sparseGet]
    · rw [sparseGet_set_other _ _ _ _ _ hk]
      simp only [sparseGet, List.map_cons, List.mem_cons, hk, false_or, if_false]

/-- A number that no entry has holds no words. -/
theorem sparseGet_not_mem {β : Type} (m : List (Nat × List β)) (k : Nat) (h : k ∉ m.map Prod.fst) : sparseGet [] m k = [] := by
  induction m with
  | nil => rfl
  | cons e m ih =>
    obtain ⟨j, v⟩ := e
    simp only [List.map_cons, List.mem_cons, not_or] at h
    simp only [sparseGet, if_neg h.1, ih h.2]

/-- The memory of the machine right after reset is canonical. -/
theorem State.resetOf_mem_wf (c : Config) : (State.resetOf c).mem.wf = true := rfl

end Machine

end Sys2Proof
end

