-- ==== Sys2Proof/Laws/Fields.lean ====
section
/-! SUPPORT. The laws of bit fields: what reads back from a word built by `place` and `|||`, from `setField` and
`setBit`, and from the four forms of an instruction word. -/

namespace Sys2Proof

theorem getLsbD_place {k : Nat} (f : BitVec k) (lo i : Nat) :
    (place f lo).getLsbD i = (decide (i < 32) && decide (lo ≤ i) && f.getLsbD (i - lo)) := by
  simp only [place, BitVec.getLsbD_shiftLeft, BitVec.getLsbD_setWidth]
  by_cases h : i < lo
  · simp [h, Nat.not_le.2 h]
  · have h' : lo ≤ i := Nat.not_lt.1 h
    by_cases h32 : i < 32
    · have : i - lo < 32 := by omega
      simp [h, h', h32, this]
    · simp [h32]

theorem getLsbD_field (w : Word) (lo k i : Nat) :
    (field w lo k).getLsbD i = (decide (i < k) && w.getLsbD (lo + i)) := by
  simp [field, BitVec.getLsbD_extractLsb']

theorem field_or (x y : Word) (lo k : Nat) : field (x ||| y) lo k = field x lo k ||| field y lo k := by
  apply BitVec.eq_of_getLsbD_eq
  intro i hi
  simp only [getLsbD_field, BitVec.getLsbD_or, hi, decide_true, Bool.true_and]

theorem field_and (x y : Word) (lo k : Nat) : field (x &&& y) lo k = field x lo k &&& field y lo k := by
  apply BitVec.eq_of_getLsbD_eq
  intro i hi
  simp only [getLsbD_field, BitVec.getLsbD_and, hi, decide_true, Bool.true_and]

theorem field_place_same {k : Nat} (f : BitVec k) (lo : Nat) (h : lo + k ≤ 32) : field (place f lo) lo k = f := by
  apply BitVec.eq_of_getLsbD_eq
  intro i hi
  have h1 : lo + i < 32 := by omega
  have h2 : lo + i - lo = i := by omega
  simp only [getLsbD_field, getLsbD_place, hi, h1, h2, decide_true, Bool.true_and, Nat.le_add_right]

theorem field_place_below {k : Nat} (f : BitVec k) (lo lo' n : Nat) (h : lo + k ≤ lo') :
    field (place f lo) lo' n = 0#n := by
  apply BitVec.eq_of_getLsbD_eq
  intro i hi
  have h1 : f.getLsbD (lo' + i - lo) = false := BitVec.getLsbD_of_ge f _ (by omega)
  simp only [getLsbD_field, getLsbD_place, h1, Bool.and_false, BitVec.getLsbD_zero]

theorem field_place_above {k : Nat} (f : BitVec k) (lo lo' n : Nat) (h : lo' + n ≤ lo) :
    field (place f lo) lo' n = 0#n := by
  apply BitVec.eq_of_getLsbD_eq
  intro i hi
  have h1 : ¬ lo ≤ lo' + i := by omega
  simp only [getLsbD_field, getLsbD_place, h1, decide_false, Bool.and_false, Bool.false_and, BitVec.getLsbD_zero]

/-- Bit `j` of a word with one field replaced. -/
theorem getLsbD_setField {k : Nat} (w : Word) (lo j : Nat) (v : BitVec k) :
    (setField w lo k v).getLsbD j =
      if lo ≤ j ∧ j < lo + k ∧ j < 32 then v.getLsbD (j - lo) else w.getLsbD j := by
  simp only [setField, BitVec.getLsbD_or, BitVec.getLsbD_and, BitVec.getLsbD_not, getLsbD_place,
    BitVec.getLsbD_allOnes]
  by_cases h32 : j < 32
  · by_cases hlo : lo ≤ j
    · by_cases hk : j < lo + k
      · have : j - lo < k := by omega
        simp [h32, hlo, hk, this]
      · have h1 : ¬ j - lo < k := by omega
        have h2 : v.getLsbD (j - lo) = false := BitVec.getLsbD_of_ge v _ (by omega)
        simp [h32, hlo, hk, h1, h2]
    · simp [h32, hlo]
  · have h3 : w.getLsbD j = false := BitVec.getLsbD_of_ge w _ (by omega)
    simp [h32, h3]

theorem field_setField_same {k : Nat} (w : Word) (lo : Nat) (v : BitVec k) (h : lo + k ≤ 32) :
    field (setField w lo k v) lo k = v := by
  apply BitVec.eq_of_getLsbD_eq
  intro i hi
  have h1 : lo ≤ lo + i ∧ lo + i < lo + k ∧ lo + i < 32 := by omega
  simp only [getLsbD_field, getLsbD_setField, hi, h1, and_self, if_true, decide_true, Bool.true_and,
    Nat.add_sub_cancel_left]

theorem field_setField_other {k : Nat} (w : Word) (lo lo' n : Nat) (v : BitVec k) (h : lo + k ≤ lo' ∨ lo' + n ≤ lo) :
    field (setField w lo k v) lo' n = field w lo' n := by
  apply BitVec.eq_of_getLsbD_eq
  intro i hi
  have h1 : ¬ (lo ≤ lo' + i ∧ lo' + i < lo + k ∧ lo' + i < 32) := by omega
  simp only [getLsbD_field, getLsbD_setField, hi, h1, if_false]

theorem bit_setField_other {k : Nat} (w : Word) (lo n : Nat) (v : BitVec k) (h : lo + k ≤ n ∨ n < lo) :
    bit (setField w lo k v) n = bit w n := by
  have h1 : ¬ (lo ≤ n ∧ n < lo + k ∧ n < 32) := by omega
  simp only [bit, getLsbD_setField, h1, if_false]

theorem bit_setBit_same (w : Word) (n : Nat) (v : Bool) (h : n < 32) : bit (setBit w n v) n = v := by
  have h1 : n ≤ n ∧ n < n + 1 ∧ n < 32 := by omega
  simp only [bit, setBit, getLsbD_setField, h1, and_self, if_true, Nat.sub_self]
  cases v <;> rfl

theorem bit_setBit_other (w : Word) (n m : Nat) (v : Bool) (h : n ≠ m) : bit (setBit w n v) m = bit w m := by
  unfold setBit
  exact bit_setField_other w n m _ (by omega)

theorem field_setBit_other (w : Word) (n lo k : Nat) (v : Bool) (h : n < lo ∨ lo + k ≤ n) :
    field (setBit w n v) lo k = field w lo k := by
  unfold setBit
  exact field_setField_other w n lo k _ (by omega)

/-- Replacing a field by what it holds changes nothing. -/
theorem setField_field (w : Word) (lo k : Nat) : setField w lo k (field w lo k) = w := by
  apply BitVec.eq_of_getLsbD_eq
  intro i hi
  rw [getLsbD_setField]
  split
  · next hc =>
    rw [getLsbD_field]
    have h1 : i - lo < k := by omega
    have h2 : lo + (i - lo) = i := by omega
    simp [h1, h2]
  · rfl

/-- The four bytes of a word make the word again (20_memory.md R107). -/
theorem wordOfBytes_bytesOfWord (w : Word) :
    wordOfBytes (byteOfWord w 0) (byteOfWord w 1) (byteOfWord w 2) (byteOfWord w 3) = w := by
  apply BitVec.eq_of_getLsbD_eq
  intro i hi
  simp only [wordOfBytes, BitVec.getLsbD_or, getLsbD_place, byteOfWord, BitVec.getLsbD_extractLsb']
  rcases Nat.lt_or_ge i 8 with h | h
  · have h1 : ¬ 8 ≤ i := by omega
    have h2 : ¬ 16 ≤ i := by omega
    have h3 : ¬ 24 ≤ i := by omega
    simp [hi, h, h1, h2, h3]
  · rcases Nat.lt_or_ge i 16 with h' | h'
    · have h2 : ¬ 16 ≤ i := by omega
      have h3 : ¬ 24 ≤ i := by omega
      have h4 : i - 8 < 8 := by omega
      have h5 : 8 + (i - 8) = i := by omega
      have h6 : ¬ i < 8 := by omega
      simp [hi, h, h2, h3, h4, h5, h6]
    · rcases Nat.lt_or_ge i 24 with h'' | h''
      · have h3 : ¬ 24 ≤ i := by omega
        have h4 : i - 16 < 8 := by omega
        have h5 : 16 + (i - 16) = i := by omega
        have h6 : ¬ i < 8 := by omega
        have h7 : ¬ i - 8 < 8 := by omega
        simp [hi, h, h', h3, h4, h5, h6, h7]
      · have h4 : i - 24 < 8 := by omega
        have h5 : 24 + (i - 24) = i := by omega
        have h6 : ¬ i < 8 := by omega
        have h7 : ¬ i - 8 < 8 := by omega
        have h8 : ¬ i - 16 < 8 := by omega
        simp [hi, h, h', h'', h4, h5, h6, h7, h8]

/-- A word stored and read back as a list of four bytes (20_memory.md R107). -/
theorem wordOfByteList_bytesOfWord (w : Word) : wordOfByteList (bytesOfWord w) = w := by
  apply BitVec.eq_of_getLsbD_eq
  intro i hi
  simp only [bytesOfWord, wordOfByteList, zext, BitVec.getLsbD_or, BitVec.getLsbD_shiftLeft, BitVec.getLsbD_setWidth,
    byteOfWord, BitVec.getLsbD_extractLsb']
  rcases Nat.lt_or_ge i 8 with h | h
  · simp [hi, h]
  · rcases Nat.lt_or_ge i 16 with h' | h'
    · have h5 : 8 + (i - 8) = i := by omega
      have h4 : i - 8 < 8 := by omega
      have h6 : ¬ i < 8 := by omega
      have h7 : i - 8 < 32 := by omega
      simp [hi, h4, h5, h6, h7]
    · rcases Nat.lt_or_ge i 24 with h'' | h''
      · have h4 : i - 8 - 8 < 8 := by omega
        have h5 : 16 + (i - 8 - 8) = i := by omega
        have h6 : ¬ i < 8 := by omega
        have h7 : ¬ i - 8 < 8 := by omega
        have h8 : i - 8 < 32 := by omega
        have h9 : i - 8 - 8 < 32 := by omega
        simp [hi, h4, h5, h6, h7, h8, h9]
      · have h4 : i - 8 - 8 - 8 < 8 := by omega
        have h5 : 24 + (i - 8 - 8 - 8) = i := by omega
        have h6 : ¬ i < 8 := by omega
        have h7 : ¬ i - 8 < 8 := by omega
        have h8 : i - 8 < 32 := by omega
        have h9 : i - 8 - 8 < 32 := by omega
        have h10 : ¬ i - 8 - 8 < 8 := by omega
        have h11 : i - 8 - 8 - 8 < 32 := by omega
        simp [hi, h4, h5, h6, h7, h8, h9, h10, h11]

/-! ## The fields of the four word forms (30_encoding.md R201 to R204) -/

theorem opOf_encR (a b c : RegIdx) (opx : BitVec 6) (n : BitVec 5) : opOf (encR a b c opx n) = 0x3A#6 := by
  change field _ 0 6 = _
  simp (disch := omega) only [encR, field_or, field_place_same, field_place_below, field_place_above, BitVec.zero_or,
    BitVec.or_zero]

theorem opxOf_encR (a b c : RegIdx) (opx : BitVec 6) (n : BitVec 5) : opxOf (encR a b c opx n) = opx := by
  change field _ 11 6 = _
  simp (disch := omega) only [encR, field_or, field_place_same, field_place_below, field_place_above, BitVec.zero_or,
    BitVec.or_zero]

theorem imm5Of_encR (a b c : RegIdx) (opx : BitVec 6) (n : BitVec 5) : imm5Of (encR a b c opx n) = n := by
  change field _ 6 5 = _
  simp (disch := omega) only [encR, field_or, field_place_same, field_place_below, field_place_above, BitVec.zero_or,
    BitVec.or_zero]

theorem aOf_encR (a b c : RegIdx) (opx : BitVec 6) (n : BitVec 5) : aOf (encR a b c opx n) = a := by
  change field _ 27 5 = _
  simp (disch := omega) only [encR, field_or, field_place_same, field_place_below, field_place_above, BitVec.zero_or,
    BitVec.or_zero]

theorem bOf_encR (a b c : RegIdx) (opx : BitVec 6) (n : BitVec 5) : bOf (encR a b c opx n) = b := by
  change field _ 22 5 = _
  simp (disch := omega) only [encR, field_or, field_place_same, field_place_below, field_place_above, BitVec.zero_or,
    BitVec.or_zero]

theorem cOf_encR (a b c : RegIdx) (opx : BitVec 6) (n : BitVec 5) : cOf (encR a b c opx n) = c := by
  change field _ 17 5 = _
  simp (disch := omega) only [encR, field_or, field_place_same, field_place_below, field_place_above, BitVec.zero_or,
    BitVec.or_zero]

theorem opOf_encI (a b : RegIdx) (imm : BitVec 16) (op : BitVec 6) : opOf (encI a b imm op) = op := by
  change field _ 0 6 = _
  simp (disch := omega) only [encI, field_or, field_place_same, field_place_below, field_place_above, BitVec.zero_or,
    BitVec.or_zero]

theorem opOf_encJ (imm : BitVec 26) (op : BitVec 6) : opOf (encJ imm op) = op := by
  change field _ 0 6 = _
  simp (disch := omega) only [encJ, field_or, field_place_same, field_place_below, field_place_above, BitVec.zero_or,
    BitVec.or_zero]

theorem opOf_encCustom (n : BitVec 8) (ra rb wc : Bool) (c a b : RegIdx) :
    opOf (encCustom n ra rb wc c a b) = 0x32#6 := by
  change field _ 0 6 = _
  simp (disch := omega) only [encCustom, field_or, field_place_same, field_place_below, field_place_above,
    BitVec.zero_or, BitVec.or_zero]

end Sys2Proof
end

