-- ==== Sys2Proof/Laws/Registers.lean ====
section
/-! SUPPORT. The laws of registers: what a register write can change, and what reads back. -/

namespace Sys2Proof.Machine

open Sys2Proof

/-! ## What the ECC bookkeeping can change -/

/-- An injection changes `eccinj`, its old value and the draw counter only. -/
theorem State.injectionDone_only (s : State) (lo : Nat) :
    s.injectionDone lo = { s with
      eccinj := (s.injectionDone lo).eccinj, eccinjOld := (s.injectionDone lo).eccinjOld,
      draws := (s.injectionDone lo).draws } := by
  unfold State.injectionDone
  split <;> rfl

/-- On a core without ECC no injection happens. -/
@[simp] theorem State.injectionDone_noEcc (s : State) (lo : Nat) (h : s.cfg.ecc = false) : s.injectionDone lo = s := by
  simp [State.injectionDone, h]

/-- On a core without ECC every RAM reads clean. -/
@[simp] theorem State.eccRead_noEcc (s : State) (m : EccMark) (h : s.cfg.ecc = false) : s.eccRead m = .clean := by
  simp [State.eccRead, State.eccOn, h]

/-- On a core without ECC no bit is put in error. -/
@[simp] theorem State.injectedBits_noEcc (s : State) (lo w : Nat) (h : s.cfg.ecc = false) : s.injectedBits lo w = [] := by
  simp [State.injectedBits, State.injectedCount, h]

/-- On a core without ECC a register's RAM holds what is written to it. -/
@[simp] theorem State.rfWord_noEcc (s : State) (v : Word) (h : s.cfg.ecc = false) : s.rfWord v = v := by
  simp [State.rfWord, h]

/-- An unmarked RAM word reads clean. -/
@[simp] theorem State.eccRead_none (s : State) : s.eccRead .none = .clean := by
  unfold State.eccRead
  split <;> rfl

/-- Writing a register changes, besides the register, the ECC mark of the register and the injection field only. -/
theorem State.setGpr_only (s : State) (set : Nat) (r : RegIdx) (v : Word) :
    s.setGpr set r v = { s with
      gpr := (s.setGpr set r v).gpr, shadow := (s.setGpr set r v).shadow, rfEcc := (s.setGpr set r v).rfEcc,
      eccinj := (s.setGpr set r v).eccinj, draws := (s.setGpr set r v).draws } := by
  unfold State.setGpr State.rfWritten State.storeGpr State.injectionDone
  split <;> [rfl; (split <;> split <;> first | rfl | (split <;> rfl))]

/-- An instruction that writes a register writes nothing else but its ECC state. -/
theorem State.setReg_only (s : State) (r : RegIdx) (v : Word) :
    s.setReg r v = { s with
      gpr := (s.setReg r v).gpr, shadow := (s.setReg r v).shadow, rfEcc := (s.setReg r v).rfEcc,
      eccinj := (s.setReg r v).eccinj, draws := (s.setReg r v).draws } := by
  unfold State.setReg
  split
  · rfl
  · exact s.setGpr_only _ _ _

/-- A load's register write is that of any instruction, or of hardware where the configuration has loads write register 0 of a
shadow set. -/
theorem State.setLoaded_cases (s : State) (r : RegIdx) (v : Word) :
    s.setLoaded r v = s.setReg r v ∨ s.setLoaded r v = s.setGpr s.crs r v := by
  unfold State.setLoaded
  split <;> simp

/-- A load to a register other than 0 writes it as any instruction does. -/
theorem State.setLoaded_of_ne (s : State) {r : RegIdx} (v : Word) (h : r ≠ 0#5) : s.setLoaded r v = s.setReg r v := by
  simp [State.setLoaded, State.setReg, h]

/-- A load that writes a register writes nothing else but its ECC state. -/
theorem State.setLoaded_only (s : State) (r : RegIdx) (v : Word) :
    s.setLoaded r v = { s with
      gpr := (s.setLoaded r v).gpr, shadow := (s.setLoaded r v).shadow, rfEcc := (s.setLoaded r v).rfEcc,
      eccinj := (s.setLoaded r v).eccinj, draws := (s.setLoaded r v).draws } := by
  rcases s.setLoaded_cases r v with h | h
  · rw [h]; exact s.setReg_only r v
  · rw [h]; exact s.setGpr_only s.crs r v

@[simp] theorem State.setGpr_cfg (s : State) (set : Nat) (r : RegIdx) (v : Word) : (s.setGpr set r v).cfg = s.cfg :=
  (congrArg State.cfg (s.setGpr_only set r v)).trans rfl
@[simp] theorem State.setGpr_pc (s : State) (set : Nat) (r : RegIdx) (v : Word) : (s.setGpr set r v).pc = s.pc :=
  (congrArg State.pc (s.setGpr_only set r v)).trans rfl
@[simp] theorem State.setGpr_status (s : State) (set : Nat) (r : RegIdx) (v : Word) : (s.setGpr set r v).status = s.status :=
  (congrArg State.status (s.setGpr_only set r v)).trans rfl
@[simp] theorem State.setGpr_estatus (s : State) (set : Nat) (r : RegIdx) (v : Word) : (s.setGpr set r v).estatus = s.estatus :=
  (congrArg State.estatus (s.setGpr_only set r v)).trans rfl
@[simp] theorem State.setGpr_bstatus (s : State) (set : Nat) (r : RegIdx) (v : Word) : (s.setGpr set r v).bstatus = s.bstatus :=
  (congrArg State.bstatus (s.setGpr_only set r v)).trans rfl
@[simp] theorem State.setGpr_ienable (s : State) (set : Nat) (r : RegIdx) (v : Word) : (s.setGpr set r v).ienable = s.ienable :=
  (congrArg State.ienable (s.setGpr_only set r v)).trans rfl
@[simp] theorem State.setGpr_exception (s : State) (set : Nat) (r : RegIdx) (v : Word) : (s.setGpr set r v).exception = s.exception :=
  (congrArg State.exception (s.setGpr_only set r v)).trans rfl
@[simp] theorem State.setGpr_pteaddr (s : State) (set : Nat) (r : RegIdx) (v : Word) : (s.setGpr set r v).pteaddr = s.pteaddr :=
  (congrArg State.pteaddr (s.setGpr_only set r v)).trans rfl
@[simp] theorem State.setGpr_tlbacc (s : State) (set : Nat) (r : RegIdx) (v : Word) : (s.setGpr set r v).tlbacc = s.tlbacc :=
  (congrArg State.tlbacc (s.setGpr_only set r v)).trans rfl
@[simp] theorem State.setGpr_tlbmisc (s : State) (set : Nat) (r : RegIdx) (v : Word) : (s.setGpr set r v).tlbmisc = s.tlbmisc :=
  (congrArg State.tlbmisc (s.setGpr_only set r v)).trans rfl
@[simp] theorem State.setGpr_badaddr (s : State) (set : Nat) (r : RegIdx) (v : Word) : (s.setGpr set r v).badaddr = s.badaddr :=
  (congrArg State.badaddr (s.setGpr_only set r v)).trans rfl
@[simp] theorem State.setGpr_config (s : State) (set : Nat) (r : RegIdx) (v : Word) : (s.setGpr set r v).config = s.config :=
  (congrArg State.config (s.setGpr_only set r v)).trans rfl
@[simp] theorem State.setGpr_mpubase (s : State) (set : Nat) (r : RegIdx) (v : Word) : (s.setGpr set r v).mpubase = s.mpubase :=
  (congrArg State.mpubase (s.setGpr_only set r v)).trans rfl
@[simp] theorem State.setGpr_mpuacc (s : State) (set : Nat) (r : RegIdx) (v : Word) : (s.setGpr set r v).mpuacc = s.mpuacc :=
  (congrArg State.mpuacc (s.setGpr_only set r v)).trans rfl
@[simp] theorem State.setGpr_tlb (s : State) (set : Nat) (r : RegIdx) (v : Word) : (s.setGpr set r v).tlb = s.tlb :=
  (congrArg State.tlb (s.setGpr_only set r v)).trans rfl
@[simp] theorem State.setGpr_iregions (s : State) (set : Nat) (r : RegIdx) (v : Word) : (s.setGpr set r v).iregions = s.iregions :=
  (congrArg State.iregions (s.setGpr_only set r v)).trans rfl
@[simp] theorem State.setGpr_dregions (s : State) (set : Nat) (r : RegIdx) (v : Word) : (s.setGpr set r v).dregions = s.dregions :=
  (congrArg State.dregions (s.setGpr_only set r v)).trans rfl
@[simp] theorem State.setGpr_icache (s : State) (set : Nat) (r : RegIdx) (v : Word) : (s.setGpr set r v).icache = s.icache :=
  (congrArg State.icache (s.setGpr_only set r v)).trans rfl
@[simp] theorem State.setGpr_dcache (s : State) (set : Nat) (r : RegIdx) (v : Word) : (s.setGpr set r v).dcache = s.dcache :=
  (congrArg State.dcache (s.setGpr_only set r v)).trans rfl
@[simp] theorem State.setGpr_mem (s : State) (set : Nat) (r : RegIdx) (v : Word) : (s.setGpr set r v).mem = s.mem :=
  (congrArg State.mem (s.setGpr_only set r v)).trans rfl
@[simp] theorem State.setGpr_irq (s : State) (set : Nat) (r : RegIdx) (v : Word) : (s.setGpr set r v).irq = s.irq :=
  (congrArg State.irq (s.setGpr_only set r v)).trans rfl
@[simp] theorem State.setGpr_eic (s : State) (set : Nat) (r : RegIdx) (v : Word) : (s.setGpr set r v).eic = s.eic :=
  (congrArg State.eic (s.setGpr_only set r v)).trans rfl
@[simp] theorem State.setGpr_resetPin (s : State) (set : Nat) (r : RegIdx) (v : Word) : (s.setGpr set r v).resetPin = s.resetPin :=
  (congrArg State.resetPin (s.setGpr_only set r v)).trans rfl
@[simp] theorem State.setGpr_cpuResetRequest (s : State) (set : Nat) (r : RegIdx) (v : Word) : (s.setGpr set r v).cpuResetRequest = s.cpuResetRequest :=
  (congrArg State.cpuResetRequest (s.setGpr_only set r v)).trans rfl
@[simp] theorem State.setGpr_prefetched (s : State) (set : Nat) (r : RegIdx) (v : Word) : (s.setGpr set r v).prefetched = s.prefetched :=
  (congrArg State.prefetched (s.setGpr_only set r v)).trans rfl
@[simp] theorem State.setGpr_readAhead (s : State) (set : Nat) (r : RegIdx) (v : Word) : (s.setGpr set r v).readAhead = s.readAhead :=
  (congrArg State.readAhead (s.setGpr_only set r v)).trans rfl
@[simp] theorem State.setGpr_eccinjOld (s : State) (set : Nat) (r : RegIdx) (v : Word) : (s.setGpr set r v).eccinjOld = s.eccinjOld :=
  (congrArg State.eccinjOld (s.setGpr_only set r v)).trans rfl
@[simp] theorem State.setGpr_resetReq (s : State) (set : Nat) (r : RegIdx) (v : Word) : (s.setGpr set r v).resetReq = s.resetReq :=
  (congrArg State.resetReq (s.setGpr_only set r v)).trans rfl
@[simp] theorem State.setGpr_hwBreak (s : State) (set : Nat) (r : RegIdx) (v : Word) : (s.setGpr set r v).hwBreak = s.hwBreak :=
  (congrArg State.hwBreak (s.setGpr_only set r v)).trans rfl
@[simp] theorem State.setGpr_debugReq (s : State) (set : Nat) (r : RegIdx) (v : Word) : (s.setGpr set r v).debugReq = s.debugReq :=
  (congrArg State.debugReq (s.setGpr_only set r v)).trans rfl
@[simp] theorem State.setGpr_debugMode (s : State) (set : Nat) (r : RegIdx) (v : Word) : (s.setGpr set r v).debugMode = s.debugMode :=
  (congrArg State.debugMode (s.setGpr_only set r v)).trans rfl
@[simp] theorem State.setGpr_tcmEcc (s : State) (set : Nat) (r : RegIdx) (v : Word) : (s.setGpr set r v).tcmEcc = s.tcmEcc :=
  (congrArg State.tcmEcc (s.setGpr_only set r v)).trans rfl
@[simp] theorem State.setGpr_wbError (s : State) (set : Nat) (r : RegIdx) (v : Word) : (s.setGpr set r v).wbError = s.wbError :=
  (congrArg State.wbError (s.setGpr_only set r v)).trans rfl
@[simp] theorem State.setGpr_eccBus (s : State) (set : Nat) (r : RegIdx) (v : Word) : (s.setGpr set r v).eccBus = s.eccBus :=
  (congrArg State.eccBus (s.setGpr_only set r v)).trans rfl
@[simp] theorem State.setGpr_customState (s : State) (set : Nat) (r : RegIdx) (v : Word) : (s.setGpr set r v).customState = s.customState :=
  (congrArg State.customState (s.setGpr_only set r v)).trans rfl

@[simp] theorem State.setReg_cfg (s : State) (r : RegIdx) (v : Word) : (s.setReg r v).cfg = s.cfg :=
  (congrArg State.cfg (s.setReg_only r v)).trans rfl
@[simp] theorem State.setReg_pc (s : State) (r : RegIdx) (v : Word) : (s.setReg r v).pc = s.pc :=
  (congrArg State.pc (s.setReg_only r v)).trans rfl
@[simp] theorem State.setReg_status (s : State) (r : RegIdx) (v : Word) : (s.setReg r v).status = s.status :=
  (congrArg State.status (s.setReg_only r v)).trans rfl
@[simp] theorem State.setReg_estatus (s : State) (r : RegIdx) (v : Word) : (s.setReg r v).estatus = s.estatus :=
  (congrArg State.estatus (s.setReg_only r v)).trans rfl
@[simp] theorem State.setReg_bstatus (s : State) (r : RegIdx) (v : Word) : (s.setReg r v).bstatus = s.bstatus :=
  (congrArg State.bstatus (s.setReg_only r v)).trans rfl
@[simp] theorem State.setReg_ienable (s : State) (r : RegIdx) (v : Word) : (s.setReg r v).ienable = s.ienable :=
  (congrArg State.ienable (s.setReg_only r v)).trans rfl
@[simp] theorem State.setReg_exception (s : State) (r : RegIdx) (v : Word) : (s.setReg r v).exception = s.exception :=
  (congrArg State.exception (s.setReg_only r v)).trans rfl
@[simp] theorem State.setReg_pteaddr (s : State) (r : RegIdx) (v : Word) : (s.setReg r v).pteaddr = s.pteaddr :=
  (congrArg State.pteaddr (s.setReg_only r v)).trans rfl
@[simp] theorem State.setReg_tlbacc (s : State) (r : RegIdx) (v : Word) : (s.setReg r v).tlbacc = s.tlbacc :=
  (congrArg State.tlbacc (s.setReg_only r v)).trans rfl
@[simp] theorem State.setReg_tlbmisc (s : State) (r : RegIdx) (v : Word) : (s.setReg r v).tlbmisc = s.tlbmisc :=
  (congrArg State.tlbmisc (s.setReg_only r v)).trans rfl
@[simp] theorem State.setReg_badaddr (s : State) (r : RegIdx) (v : Word) : (s.setReg r v).badaddr = s.badaddr :=
  (congrArg State.badaddr (s.setReg_only r v)).trans rfl
@[simp] theorem State.setReg_config (s : State) (r : RegIdx) (v : Word) : (s.setReg r v).config = s.config :=
  (congrArg State.config (s.setReg_only r v)).trans rfl
@[simp] theorem State.setReg_mpubase (s : State) (r : RegIdx) (v : Word) : (s.setReg r v).mpubase = s.mpubase :=
  (congrArg State.mpubase (s.setReg_only r v)).trans rfl
@[simp] theorem State.setReg_mpuacc (s : State) (r : RegIdx) (v : Word) : (s.setReg r v).mpuacc = s.mpuacc :=
  (congrArg State.mpuacc (s.setReg_only r v)).trans rfl
@[simp] theorem State.setReg_tlb (s : State) (r : RegIdx) (v : Word) : (s.setReg r v).tlb = s.tlb :=
  (congrArg State.tlb (s.setReg_only r v)).trans rfl
@[simp] theorem State.setReg_iregions (s : State) (r : RegIdx) (v : Word) : (s.setReg r v).iregions = s.iregions :=
  (congrArg State.iregions (s.setReg_only r v)).trans rfl
@[simp] theorem State.setReg_dregions (s : State) (r : RegIdx) (v : Word) : (s.setReg r v).dregions = s.dregions :=
  (congrArg State.dregions (s.setReg_only r v)).trans rfl
@[simp] theorem State.setReg_icache (s : State) (r : RegIdx) (v : Word) : (s.setReg r v).icache = s.icache :=
  (congrArg State.icache (s.setReg_only r v)).trans rfl
@[simp] theorem State.setReg_dcache (s : State) (r : RegIdx) (v : Word) : (s.setReg r v).dcache = s.dcache :=
  (congrArg State.dcache (s.setReg_only r v)).trans rfl
@[simp] theorem State.setReg_mem (s : State) (r : RegIdx) (v : Word) : (s.setReg r v).mem = s.mem :=
  (congrArg State.mem (s.setReg_only r v)).trans rfl
@[simp] theorem State.setReg_irq (s : State) (r : RegIdx) (v : Word) : (s.setReg r v).irq = s.irq :=
  (congrArg State.irq (s.setReg_only r v)).trans rfl
@[simp] theorem State.setReg_eic (s : State) (r : RegIdx) (v : Word) : (s.setReg r v).eic = s.eic :=
  (congrArg State.eic (s.setReg_only r v)).trans rfl
@[simp] theorem State.setReg_resetPin (s : State) (r : RegIdx) (v : Word) : (s.setReg r v).resetPin = s.resetPin :=
  (congrArg State.resetPin (s.setReg_only r v)).trans rfl
@[simp] theorem State.setReg_cpuResetRequest (s : State) (r : RegIdx) (v : Word) : (s.setReg r v).cpuResetRequest = s.cpuResetRequest :=
  (congrArg State.cpuResetRequest (s.setReg_only r v)).trans rfl
@[simp] theorem State.setReg_prefetched (s : State) (r : RegIdx) (v : Word) : (s.setReg r v).prefetched = s.prefetched :=
  (congrArg State.prefetched (s.setReg_only r v)).trans rfl
@[simp] theorem State.setReg_readAhead (s : State) (r : RegIdx) (v : Word) : (s.setReg r v).readAhead = s.readAhead :=
  (congrArg State.readAhead (s.setReg_only r v)).trans rfl
@[simp] theorem State.setReg_eccinjOld (s : State) (r : RegIdx) (v : Word) : (s.setReg r v).eccinjOld = s.eccinjOld :=
  (congrArg State.eccinjOld (s.setReg_only r v)).trans rfl
@[simp] theorem State.setReg_resetReq (s : State) (r : RegIdx) (v : Word) : (s.setReg r v).resetReq = s.resetReq :=
  (congrArg State.resetReq (s.setReg_only r v)).trans rfl
@[simp] theorem State.setReg_hwBreak (s : State) (r : RegIdx) (v : Word) : (s.setReg r v).hwBreak = s.hwBreak :=
  (congrArg State.hwBreak (s.setReg_only r v)).trans rfl
@[simp] theorem State.setReg_debugReq (s : State) (r : RegIdx) (v : Word) : (s.setReg r v).debugReq = s.debugReq :=
  (congrArg State.debugReq (s.setReg_only r v)).trans rfl
@[simp] theorem State.setReg_debugMode (s : State) (r : RegIdx) (v : Word) : (s.setReg r v).debugMode = s.debugMode :=
  (congrArg State.debugMode (s.setReg_only r v)).trans rfl
@[simp] theorem State.setReg_tcmEcc (s : State) (r : RegIdx) (v : Word) : (s.setReg r v).tcmEcc = s.tcmEcc :=
  (congrArg State.tcmEcc (s.setReg_only r v)).trans rfl
@[simp] theorem State.setReg_wbError (s : State) (r : RegIdx) (v : Word) : (s.setReg r v).wbError = s.wbError :=
  (congrArg State.wbError (s.setReg_only r v)).trans rfl
@[simp] theorem State.setReg_eccBus (s : State) (r : RegIdx) (v : Word) : (s.setReg r v).eccBus = s.eccBus :=
  (congrArg State.eccBus (s.setReg_only r v)).trans rfl
@[simp] theorem State.setReg_customState (s : State) (r : RegIdx) (v : Word) : (s.setReg r v).customState = s.customState :=
  (congrArg State.customState (s.setReg_only r v)).trans rfl

@[simp] theorem State.setLoaded_cfg (s : State) (r : RegIdx) (v : Word) : (s.setLoaded r v).cfg = s.cfg :=
  (congrArg State.cfg (s.setLoaded_only r v)).trans rfl
@[simp] theorem State.setLoaded_pc (s : State) (r : RegIdx) (v : Word) : (s.setLoaded r v).pc = s.pc :=
  (congrArg State.pc (s.setLoaded_only r v)).trans rfl
@[simp] theorem State.setLoaded_status (s : State) (r : RegIdx) (v : Word) : (s.setLoaded r v).status = s.status :=
  (congrArg State.status (s.setLoaded_only r v)).trans rfl
@[simp] theorem State.setLoaded_estatus (s : State) (r : RegIdx) (v : Word) : (s.setLoaded r v).estatus = s.estatus :=
  (congrArg State.estatus (s.setLoaded_only r v)).trans rfl
@[simp] theorem State.setLoaded_bstatus (s : State) (r : RegIdx) (v : Word) : (s.setLoaded r v).bstatus = s.bstatus :=
  (congrArg State.bstatus (s.setLoaded_only r v)).trans rfl
@[simp] theorem State.setLoaded_ienable (s : State) (r : RegIdx) (v : Word) : (s.setLoaded r v).ienable = s.ienable :=
  (congrArg State.ienable (s.setLoaded_only r v)).trans rfl
@[simp] theorem State.setLoaded_exception (s : State) (r : RegIdx) (v : Word) : (s.setLoaded r v).exception = s.exception :=
  (congrArg State.exception (s.setLoaded_only r v)).trans rfl
@[simp] theorem State.setLoaded_pteaddr (s : State) (r : RegIdx) (v : Word) : (s.setLoaded r v).pteaddr = s.pteaddr :=
  (congrArg State.pteaddr (s.setLoaded_only r v)).trans rfl
@[simp] theorem State.setLoaded_tlbacc (s : State) (r : RegIdx) (v : Word) : (s.setLoaded r v).tlbacc = s.tlbacc :=
  (congrArg State.tlbacc (s.setLoaded_only r v)).trans rfl
@[simp] theorem State.setLoaded_tlbmisc (s : State) (r : RegIdx) (v : Word) : (s.setLoaded r v).tlbmisc = s.tlbmisc :=
  (congrArg State.tlbmisc (s.setLoaded_only r v)).trans rfl
@[simp] theorem State.setLoaded_badaddr (s : State) (r : RegIdx) (v : Word) : (s.setLoaded r v).badaddr = s.badaddr :=
  (congrArg State.badaddr (s.setLoaded_only r v)).trans rfl
@[simp] theorem State.setLoaded_config (s : State) (r : RegIdx) (v : Word) : (s.setLoaded r v).config = s.config :=
  (congrArg State.config (s.setLoaded_only r v)).trans rfl
@[simp] theorem State.setLoaded_mpubase (s : State) (r : RegIdx) (v : Word) : (s.setLoaded r v).mpubase = s.mpubase :=
  (congrArg State.mpubase (s.setLoaded_only r v)).trans rfl
@[simp] theorem State.setLoaded_mpuacc (s : State) (r : RegIdx) (v : Word) : (s.setLoaded r v).mpuacc = s.mpuacc :=
  (congrArg State.mpuacc (s.setLoaded_only r v)).trans rfl
@[simp] theorem State.setLoaded_tlb (s : State) (r : RegIdx) (v : Word) : (s.setLoaded r v).tlb = s.tlb :=
  (congrArg State.tlb (s.setLoaded_only r v)).trans rfl
@[simp] theorem State.setLoaded_iregions (s : State) (r : RegIdx) (v : Word) : (s.setLoaded r v).iregions = s.iregions :=
  (congrArg State.iregions (s.setLoaded_only r v)).trans rfl
@[simp] theorem State.setLoaded_dregions (s : State) (r : RegIdx) (v : Word) : (s.setLoaded r v).dregions = s.dregions :=
  (congrArg State.dregions (s.setLoaded_only r v)).trans rfl
@[simp] theorem State.setLoaded_icache (s : State) (r : RegIdx) (v : Word) : (s.setLoaded r v).icache = s.icache :=
  (congrArg State.icache (s.setLoaded_only r v)).trans rfl
@[simp] theorem State.setLoaded_dcache (s : State) (r : RegIdx) (v : Word) : (s.setLoaded r v).dcache = s.dcache :=
  (congrArg State.dcache (s.setLoaded_only r v)).trans rfl
@[simp] theorem State.setLoaded_mem (s : State) (r : RegIdx) (v : Word) : (s.setLoaded r v).mem = s.mem :=
  (congrArg State.mem (s.setLoaded_only r v)).trans rfl
@[simp] theorem State.setLoaded_irq (s : State) (r : RegIdx) (v : Word) : (s.setLoaded r v).irq = s.irq :=
  (congrArg State.irq (s.setLoaded_only r v)).trans rfl
@[simp] theorem State.setLoaded_eic (s : State) (r : RegIdx) (v : Word) : (s.setLoaded r v).eic = s.eic :=
  (congrArg State.eic (s.setLoaded_only r v)).trans rfl
@[simp] theorem State.setLoaded_resetPin (s : State) (r : RegIdx) (v : Word) : (s.setLoaded r v).resetPin = s.resetPin :=
  (congrArg State.resetPin (s.setLoaded_only r v)).trans rfl
@[simp] theorem State.setLoaded_cpuResetRequest (s : State) (r : RegIdx) (v : Word) : (s.setLoaded r v).cpuResetRequest = s.cpuResetRequest :=
  (congrArg State.cpuResetRequest (s.setLoaded_only r v)).trans rfl
@[simp] theorem State.setLoaded_prefetched (s : State) (r : RegIdx) (v : Word) : (s.setLoaded r v).prefetched = s.prefetched :=
  (congrArg State.prefetched (s.setLoaded_only r v)).trans rfl
@[simp] theorem State.setLoaded_readAhead (s : State) (r : RegIdx) (v : Word) : (s.setLoaded r v).readAhead = s.readAhead :=
  (congrArg State.readAhead (s.setLoaded_only r v)).trans rfl
@[simp] theorem State.setLoaded_eccinjOld (s : State) (r : RegIdx) (v : Word) : (s.setLoaded r v).eccinjOld = s.eccinjOld :=
  (congrArg State.eccinjOld (s.setLoaded_only r v)).trans rfl
@[simp] theorem State.setLoaded_resetReq (s : State) (r : RegIdx) (v : Word) : (s.setLoaded r v).resetReq = s.resetReq :=
  (congrArg State.resetReq (s.setLoaded_only r v)).trans rfl
@[simp] theorem State.setLoaded_hwBreak (s : State) (r : RegIdx) (v : Word) : (s.setLoaded r v).hwBreak = s.hwBreak :=
  (congrArg State.hwBreak (s.setLoaded_only r v)).trans rfl
@[simp] theorem State.setLoaded_debugReq (s : State) (r : RegIdx) (v : Word) : (s.setLoaded r v).debugReq = s.debugReq :=
  (congrArg State.debugReq (s.setLoaded_only r v)).trans rfl
@[simp] theorem State.setLoaded_debugMode (s : State) (r : RegIdx) (v : Word) : (s.setLoaded r v).debugMode = s.debugMode :=
  (congrArg State.debugMode (s.setLoaded_only r v)).trans rfl
@[simp] theorem State.setLoaded_tcmEcc (s : State) (r : RegIdx) (v : Word) : (s.setLoaded r v).tcmEcc = s.tcmEcc :=
  (congrArg State.tcmEcc (s.setLoaded_only r v)).trans rfl
@[simp] theorem State.setLoaded_wbError (s : State) (r : RegIdx) (v : Word) : (s.setLoaded r v).wbError = s.wbError :=
  (congrArg State.wbError (s.setLoaded_only r v)).trans rfl
@[simp] theorem State.setLoaded_eccBus (s : State) (r : RegIdx) (v : Word) : (s.setLoaded r v).eccBus = s.eccBus :=
  (congrArg State.eccBus (s.setLoaded_only r v)).trans rfl
@[simp] theorem State.setLoaded_customState (s : State) (r : RegIdx) (v : Word) : (s.setLoaded r v).customState = s.customState :=
  (congrArg State.customState (s.setLoaded_only r v)).trans rfl

@[simp] theorem State.injectionDone_cfg (s : State) (lo : Nat) : (s.injectionDone lo).cfg = s.cfg :=
  (congrArg State.cfg (s.injectionDone_only lo)).trans rfl
@[simp] theorem State.injectionDone_pc (s : State) (lo : Nat) : (s.injectionDone lo).pc = s.pc :=
  (congrArg State.pc (s.injectionDone_only lo)).trans rfl
@[simp] theorem State.injectionDone_gpr (s : State) (lo : Nat) : (s.injectionDone lo).gpr = s.gpr :=
  (congrArg State.gpr (s.injectionDone_only lo)).trans rfl
@[simp] theorem State.injectionDone_shadow (s : State) (lo : Nat) : (s.injectionDone lo).shadow = s.shadow :=
  (congrArg State.shadow (s.injectionDone_only lo)).trans rfl
@[simp] theorem State.injectionDone_status (s : State) (lo : Nat) : (s.injectionDone lo).status = s.status :=
  (congrArg State.status (s.injectionDone_only lo)).trans rfl
@[simp] theorem State.injectionDone_estatus (s : State) (lo : Nat) : (s.injectionDone lo).estatus = s.estatus :=
  (congrArg State.estatus (s.injectionDone_only lo)).trans rfl
@[simp] theorem State.injectionDone_bstatus (s : State) (lo : Nat) : (s.injectionDone lo).bstatus = s.bstatus :=
  (congrArg State.bstatus (s.injectionDone_only lo)).trans rfl
@[simp] theorem State.injectionDone_ienable (s : State) (lo : Nat) : (s.injectionDone lo).ienable = s.ienable :=
  (congrArg State.ienable (s.injectionDone_only lo)).trans rfl
@[simp] theorem State.injectionDone_exception (s : State) (lo : Nat) : (s.injectionDone lo).exception = s.exception :=
  (congrArg State.exception (s.injectionDone_only lo)).trans rfl
@[simp] theorem State.injectionDone_pteaddr (s : State) (lo : Nat) : (s.injectionDone lo).pteaddr = s.pteaddr :=
  (congrArg State.pteaddr (s.injectionDone_only lo)).trans rfl
@[simp] theorem State.injectionDone_tlbacc (s : State) (lo : Nat) : (s.injectionDone lo).tlbacc = s.tlbacc :=
  (congrArg State.tlbacc (s.injectionDone_only lo)).trans rfl
@[simp] theorem State.injectionDone_tlbmisc (s : State) (lo : Nat) : (s.injectionDone lo).tlbmisc = s.tlbmisc :=
  (congrArg State.tlbmisc (s.injectionDone_only lo)).trans rfl
@[simp] theorem State.injectionDone_badaddr (s : State) (lo : Nat) : (s.injectionDone lo).badaddr = s.badaddr :=
  (congrArg State.badaddr (s.injectionDone_only lo)).trans rfl
@[simp] theorem State.injectionDone_config (s : State) (lo : Nat) : (s.injectionDone lo).config = s.config :=
  (congrArg State.config (s.injectionDone_only lo)).trans rfl
@[simp] theorem State.injectionDone_mpubase (s : State) (lo : Nat) : (s.injectionDone lo).mpubase = s.mpubase :=
  (congrArg State.mpubase (s.injectionDone_only lo)).trans rfl
@[simp] theorem State.injectionDone_mpuacc (s : State) (lo : Nat) : (s.injectionDone lo).mpuacc = s.mpuacc :=
  (congrArg State.mpuacc (s.injectionDone_only lo)).trans rfl
@[simp] theorem State.injectionDone_tlb (s : State) (lo : Nat) : (s.injectionDone lo).tlb = s.tlb :=
  (congrArg State.tlb (s.injectionDone_only lo)).trans rfl
@[simp] theorem State.injectionDone_iregions (s : State) (lo : Nat) : (s.injectionDone lo).iregions = s.iregions :=
  (congrArg State.iregions (s.injectionDone_only lo)).trans rfl
@[simp] theorem State.injectionDone_dregions (s : State) (lo : Nat) : (s.injectionDone lo).dregions = s.dregions :=
  (congrArg State.dregions (s.injectionDone_only lo)).trans rfl
@[simp] theorem State.injectionDone_icache (s : State) (lo : Nat) : (s.injectionDone lo).icache = s.icache :=
  (congrArg State.icache (s.injectionDone_only lo)).trans rfl
@[simp] theorem State.injectionDone_dcache (s : State) (lo : Nat) : (s.injectionDone lo).dcache = s.dcache :=
  (congrArg State.dcache (s.injectionDone_only lo)).trans rfl
@[simp] theorem State.injectionDone_mem (s : State) (lo : Nat) : (s.injectionDone lo).mem = s.mem :=
  (congrArg State.mem (s.injectionDone_only lo)).trans rfl
@[simp] theorem State.injectionDone_irq (s : State) (lo : Nat) : (s.injectionDone lo).irq = s.irq :=
  (congrArg State.irq (s.injectionDone_only lo)).trans rfl
@[simp] theorem State.injectionDone_eic (s : State) (lo : Nat) : (s.injectionDone lo).eic = s.eic :=
  (congrArg State.eic (s.injectionDone_only lo)).trans rfl
@[simp] theorem State.injectionDone_resetPin (s : State) (lo : Nat) : (s.injectionDone lo).resetPin = s.resetPin :=
  (congrArg State.resetPin (s.injectionDone_only lo)).trans rfl
@[simp] theorem State.injectionDone_cpuResetRequest (s : State) (lo : Nat) : (s.injectionDone lo).cpuResetRequest = s.cpuResetRequest :=
  (congrArg State.cpuResetRequest (s.injectionDone_only lo)).trans rfl
@[simp] theorem State.injectionDone_prefetched (s : State) (lo : Nat) : (s.injectionDone lo).prefetched = s.prefetched :=
  (congrArg State.prefetched (s.injectionDone_only lo)).trans rfl
@[simp] theorem State.injectionDone_readAhead (s : State) (lo : Nat) : (s.injectionDone lo).readAhead = s.readAhead :=
  (congrArg State.readAhead (s.injectionDone_only lo)).trans rfl
@[simp] theorem State.injectionDone_resetReq (s : State) (lo : Nat) : (s.injectionDone lo).resetReq = s.resetReq :=
  (congrArg State.resetReq (s.injectionDone_only lo)).trans rfl
@[simp] theorem State.injectionDone_hwBreak (s : State) (lo : Nat) : (s.injectionDone lo).hwBreak = s.hwBreak :=
  (congrArg State.hwBreak (s.injectionDone_only lo)).trans rfl
@[simp] theorem State.injectionDone_debugReq (s : State) (lo : Nat) : (s.injectionDone lo).debugReq = s.debugReq :=
  (congrArg State.debugReq (s.injectionDone_only lo)).trans rfl
@[simp] theorem State.injectionDone_debugMode (s : State) (lo : Nat) : (s.injectionDone lo).debugMode = s.debugMode :=
  (congrArg State.debugMode (s.injectionDone_only lo)).trans rfl
@[simp] theorem State.injectionDone_rfEcc (s : State) (lo : Nat) : (s.injectionDone lo).rfEcc = s.rfEcc :=
  (congrArg State.rfEcc (s.injectionDone_only lo)).trans rfl
@[simp] theorem State.injectionDone_tcmEcc (s : State) (lo : Nat) : (s.injectionDone lo).tcmEcc = s.tcmEcc :=
  (congrArg State.tcmEcc (s.injectionDone_only lo)).trans rfl
@[simp] theorem State.injectionDone_wbError (s : State) (lo : Nat) : (s.injectionDone lo).wbError = s.wbError :=
  (congrArg State.wbError (s.injectionDone_only lo)).trans rfl
@[simp] theorem State.injectionDone_eccBus (s : State) (lo : Nat) : (s.injectionDone lo).eccBus = s.eccBus :=
  (congrArg State.eccBus (s.injectionDone_only lo)).trans rfl
@[simp] theorem State.injectionDone_customState (s : State) (lo : Nat) : (s.injectionDone lo).customState = s.customState :=
  (congrArg State.customState (s.injectionDone_only lo)).trans rfl

/-! ## What reads back (10_state.md R20, R21, R23, R25) -/

/-- Register 0 of the normal set always reads 0 (10_state.md R21). -/
@[simp] theorem State.getGpr_zero (s : State) : s.getGpr 0 0#5 = 0#32 := rfl

/-- A read depends on the two register files only. -/
theorem State.getGpr_congr (s t : State) (hg : t.gpr = s.gpr) (hs : t.shadow = s.shadow) (set : Nat) (r : RegIdx) :
    t.getGpr set r = s.getGpr set r := by
  simp only [State.getGpr, hg, hs]

/-- Writing a register: the register files are those of the bare store. -/
theorem State.setGpr_files (s : State) (set : Nat) (r : RegIdx) (v : Word) (h : ¬ (set = 0 ∧ r = 0#5)) :
    (s.setGpr set r v).gpr = (s.storeGpr set r (s.rfWord v)).gpr
      ∧ (s.setGpr set r v).shadow = (s.storeGpr set r (s.rfWord v)).shadow := by
  unfold State.setGpr State.rfWritten
  rw [if_neg h]
  split <;> simp

/-- A register of an implemented set reads what was written to its RAM, register 0 of the normal set apart. -/
theorem State.getGpr_setGpr_same (s : State) (set : Nat) (r : RegIdx) (v : Word) (hs : set ≤ s.shadow.length)
    (h : ¬ (set = 0 ∧ r = 0#5)) : (s.setGpr set r v).getGpr set r = s.rfWord v := by
  obtain ⟨h1, h2⟩ := s.setGpr_files set r v h
  rw [State.getGpr_congr _ _ h1 h2]
  unfold State.getGpr State.storeGpr
  by_cases h0 : set = 0
  · have hr : r ≠ 0#5 := fun hr => h ⟨h0, hr⟩
    simp [h0, hr]
  · have hlt : set - 1 < s.shadow.length := by omega
    simp [h0, List.getD_eq_getElem?_getD, List.getElem?_modify, hlt]

/-- Every other register reads as before. -/
theorem State.getGpr_setGpr_other (s : State) (set : Nat) (r : RegIdx) (v : Word) (set' : Nat) (r' : RegIdx)
    (h : set' ≠ set ∨ r' ≠ r) : (s.setGpr set r v).getGpr set' r' = s.getGpr set' r' := by
  by_cases hz : set = 0 ∧ r = 0#5
  · simp [State.setGpr, hz]
  · obtain ⟨h1, h2⟩ := s.setGpr_files set r v hz
    rw [State.getGpr_congr _ _ h1 h2]
    have hne : r' ≠ r → r.toNat ≠ r'.toNat := fun hr hn => hr (BitVec.eq_of_toNat_eq hn.symm)
    unfold State.getGpr State.storeGpr
    by_cases h0 : set = 0
    · by_cases h0' : set' = 0
      · have hr : r' ≠ r := by
          rcases h with h | h
          · exact absurd (h0'.trans h0.symm) h
          · exact h
        simp only [h0, h0', if_true]
        split
        · rfl
        · simp [Vector.getElem_set, hne hr]
      · simp [h0, h0']
    · by_cases h0' : set' = 0
      · simp [h0, h0']
      · simp only [h0, h0', if_false]
        by_cases hss : set' = set
        · have hr : r' ≠ r := by
            rcases h with h | h
            · exact absurd hss h
            · exact h
          subst hss
          by_cases hlt : set' - 1 < s.shadow.length
          · simp [List.getD_eq_getElem?_getD, List.getElem?_modify, hlt, Vector.getElem_set, hne hr]
          · simp [List.getD_eq_getElem?_getD, List.getElem?_modify, hlt]
        · have : set - 1 ≠ set' - 1 := by omega
          simp [List.getD_eq_getElem?_getD, List.getElem?_modify, this]

/-- What every register reads after an instruction writes `v` to rD of an implemented current set: rD reads what its RAM
makes of `v` unless it is r0, every other register reads as before (10_state.md R21, R25, 00_scope.md R9). -/
theorem State.getGpr_setReg (s : State) (r : RegIdx) (v : Word) (hs : s.crs ≤ s.shadow.length) (set : Nat) (j : RegIdx) :
    (s.setReg r v).getGpr set j = if set = s.crs ∧ j = r ∧ r ≠ 0#5 then s.rfWord v else s.getGpr set j := by
  unfold State.setReg
  by_cases hr : r = 0#5
  · simp [hr]
  · rw [if_neg hr]
    by_cases hc : set = s.crs ∧ j = r
    · obtain ⟨rfl, rfl⟩ := hc
      rw [State.getGpr_setGpr_same _ _ _ _ hs (fun h => hr h.2)]
      simp [hr]
    · rw [State.getGpr_setGpr_other _ _ _ _ _ _ (by
        by_cases h1 : set = s.crs
        · exact .inr fun h2 => hc ⟨h1, h2⟩
        · exact .inl h1)]
      rw [if_neg fun h => hc ⟨h.1, h.2.1⟩]

/-- What every register reads after a load writes `v` to rB of an implemented current set: as after any instruction, but for
register 0 of a shadow set where the configuration has loads write it (40_data_transfer.md R259, 10_state.md R25). -/
theorem State.getGpr_setLoaded (s : State) (r : RegIdx) (v : Word) (hs : s.crs ≤ s.shadow.length) (set : Nat) (j : RegIdx) :
    (s.setLoaded r v).getGpr set j =
      if set = s.crs ∧ j = r ∧ (r ≠ 0#5 ∨ s.crs ≠ 0 ∧ s.cfg.loadsWriteShadowR0 = true) then s.rfWord v else s.getGpr set j := by
  by_cases hr : r = 0#5
  · by_cases hw : s.crs ≠ 0 ∧ s.cfg.loadsWriteShadowR0 = true
    · have hz : ¬ (s.crs = 0 ∧ r = 0#5) := fun h => hw.1 h.1
      unfold State.setLoaded
      rw [if_pos hw.2]
      by_cases hc : set = s.crs ∧ j = r
      · obtain ⟨rfl, rfl⟩ := hc
        rw [State.getGpr_setGpr_same _ _ _ _ hs hz, if_pos ⟨rfl, rfl, .inr hw⟩]
      · rw [State.getGpr_setGpr_other _ _ _ _ _ _ (Decidable.not_and_iff_not_or_not.1 hc), if_neg fun h => hc ⟨h.1, h.2.1⟩]
    · have hz : s.setLoaded r v = s := by
        subst hr
        unfold State.setLoaded State.setReg State.setGpr
        by_cases h0 : s.crs = 0 <;> simp_all
      rw [hz, if_neg fun h => h.2.2.elim (fun h => h hr) hw]
  · rw [s.setLoaded_of_ne v hr, s.getGpr_setReg r v hs]
    simp [hr]

/-- The injection field of the register file after a register write: 0 on a core with ECC (10_state.md R68). -/
theorem State.setGpr_eccinj (s : State) (set : Nat) (r : RegIdx) (v : Word) (hz : ¬ (set = 0 ∧ r = 0#5)) :
    (s.setGpr set r v).eccinj = if s.cfg.ecc then setField s.eccinj 0 2 0#2 else s.eccinj := by
  have he : ∀ w, (s.storeGpr set r w).eccinj = s.eccinj := by intro w; unfold State.storeGpr; split <;> rfl
  have hc : ∀ w, (s.storeGpr set r w).cfg = s.cfg := by intro w; unfold State.storeGpr; split <;> rfl
  unfold State.setGpr State.rfWritten
  rw [if_neg hz, hc]
  split
  · next hcfg =>
    simp only [State.injectionDone, injRf, he, hc, hcfg, Bool.true_and]
    split
    · rfl
    · next hf =>
      have hf' : field s.eccinj 0 2 = 0#2 := by simpa using hf
      rw [he, ← hf', setField_field]
  · exact he _

/-- The lengths of the shadow files never change. -/
@[simp] theorem State.setGpr_shadow_length (s : State) (set : Nat) (r : RegIdx) (v : Word) :
    (s.setGpr set r v).shadow.length = s.shadow.length := by
  by_cases hz : set = 0 ∧ r = 0#5
  · simp [State.setGpr, hz]
  · rw [(s.setGpr_files set r v hz).2]
    unfold State.storeGpr
    split <;> simp

@[simp] theorem State.setReg_shadow_length (s : State) (r : RegIdx) (v : Word) :
    (s.setReg r v).shadow.length = s.shadow.length := by
  unfold State.setReg
  split <;> simp

@[simp] theorem State.setLoaded_shadow_length (s : State) (r : RegIdx) (v : Word) :
    (s.setLoaded r v).shadow.length = s.shadow.length := by
  rcases s.setLoaded_cases r v with h | h <;> simp [h]

@[simp] theorem State.setReg_zero (s : State) (v : Word) : s.setReg 0#5 v = s := rfl

end Sys2Proof.Machine
end

