-- ==== Sys2Proof/Laws/Inner.lean ====
section
/-! SUPPORT. What the memory system can do inside one instruction: no access, translation or fetch changes a register, the
mode, or an input; each keeps memory and the ECC marks canonical and every table at its size; and each ends in a value,
an exception or a fault, never in a refusal. -/

namespace Sys2Proof.Machine

open Sys2Proof

/-- `t` differs from `s` at most in memory, the caches, the old instruction words, the marks of the TLB and of tightly-coupled
memory, injection, the ECC signals and the draw counter, and no invariant is lost between them. -/
structure Inner (s t : State) : Prop where
  cfg : t.cfg = s.cfg
  pc : t.pc = s.pc
  gpr : t.gpr = s.gpr
  shadow : t.shadow = s.shadow
  status : t.status = s.status
  estatus : t.estatus = s.estatus
  bstatus : t.bstatus = s.bstatus
  ienable : t.ienable = s.ienable
  exception : t.exception = s.exception
  pteaddr : t.pteaddr = s.pteaddr
  tlbacc : t.tlbacc = s.tlbacc
  tlbmisc : t.tlbmisc = s.tlbmisc
  badaddr : t.badaddr = s.badaddr
  config : t.config = s.config
  mpubase : t.mpubase = s.mpubase
  mpuacc : t.mpuacc = s.mpuacc
  iregions : t.iregions = s.iregions
  dregions : t.dregions = s.dregions
  irq : t.irq = s.irq
  eic : t.eic = s.eic
  resetPin : t.resetPin = s.resetPin
  cpuResetRequest : t.cpuResetRequest = s.cpuResetRequest
  resetReq : t.resetReq = s.resetReq
  hwBreak : t.hwBreak = s.hwBreak
  debugReq : t.debugReq = s.debugReq
  debugMode : t.debugMode = s.debugMode
  rfEcc : t.rfEcc = s.rfEcc
  customState : t.customState = s.customState
  memWf : s.mem.wf = true → t.mem.wf = true
  tcmWf : sparseWf EccMark.none s.tcmEcc = true → sparseWf EccMark.none t.tcmEcc = true
  tlbLength : t.tlb.length = s.tlb.length
  icacheLength : t.icache.length = s.icache.length
  dcacheLength : t.dcache.length = s.dcache.length
  eccinjReserved : s.eccinj &&& 0xFFC00000#32 = 0#32 → t.eccinj &&& 0xFFC00000#32 = 0#32
  eccinjOldReserved : s.eccinj &&& 0xFFC00000#32 = 0#32 → s.eccinjOld &&& 0xFFC00000#32 = 0#32 →
    t.eccinjOld &&& 0xFFC00000#32 = 0#32
  prefetchedWf : sparseWf [] s.prefetched = true → sparseWf [] t.prefetched = true
  prefetchedNone : s.cfg.prefetches = false → t.prefetched = s.prefetched
  readAheadWf : sparseWf [] s.readAhead = true → sparseWf [] t.readAhead = true
  readAheadNone : s.cfg.icacheSize = 0 → t.readAhead = s.readAhead

theorem Inner.refl (s : State) : Inner s s := by
  constructor <;> first | rfl | exact id | exact fun _ => id | exact fun _ => rfl

theorem Inner.trans {s t u : State} (h : Inner s t) (g : Inner t u) : Inner s u where
  cfg := g.cfg.trans h.cfg
  pc := g.pc.trans h.pc
  gpr := g.gpr.trans h.gpr
  shadow := g.shadow.trans h.shadow
  status := g.status.trans h.status
  estatus := g.estatus.trans h.estatus
  bstatus := g.bstatus.trans h.bstatus
  ienable := g.ienable.trans h.ienable
  exception := g.exception.trans h.exception
  pteaddr := g.pteaddr.trans h.pteaddr
  tlbacc := g.tlbacc.trans h.tlbacc
  tlbmisc := g.tlbmisc.trans h.tlbmisc
  badaddr := g.badaddr.trans h.badaddr
  config := g.config.trans h.config
  mpubase := g.mpubase.trans h.mpubase
  mpuacc := g.mpuacc.trans h.mpuacc
  iregions := g.iregions.trans h.iregions
  dregions := g.dregions.trans h.dregions
  irq := g.irq.trans h.irq
  eic := g.eic.trans h.eic
  resetPin := g.resetPin.trans h.resetPin
  cpuResetRequest := g.cpuResetRequest.trans h.cpuResetRequest
  resetReq := g.resetReq.trans h.resetReq
  hwBreak := g.hwBreak.trans h.hwBreak
  debugReq := g.debugReq.trans h.debugReq
  debugMode := g.debugMode.trans h.debugMode
  rfEcc := g.rfEcc.trans h.rfEcc
  customState := g.customState.trans h.customState
  memWf := fun x => g.memWf (h.memWf x)
  tcmWf := fun x => g.tcmWf (h.tcmWf x)
  tlbLength := g.tlbLength.trans h.tlbLength
  icacheLength := g.icacheLength.trans h.icacheLength
  dcacheLength := g.dcacheLength.trans h.dcacheLength
  eccinjReserved := fun x => g.eccinjReserved (h.eccinjReserved x)
  eccinjOldReserved := fun x y => g.eccinjOldReserved (h.eccinjReserved x) (h.eccinjOldReserved x y)
  prefetchedWf := fun x => g.prefetchedWf (h.prefetchedWf x)
  prefetchedNone := fun x => (g.prefetchedNone (by rw [h.cfg]; exact x)).trans (h.prefetchedNone x)
  readAheadWf := fun x => g.readAheadWf (h.readAheadWf x)
  readAheadNone := fun x => (g.readAheadNone (by rw [h.cfg]; exact x)).trans (h.readAheadNone x)

/-! ## The plain updates -/

theorem setField_zero_and (w : Word) (lo k : Nat) (m : Word) (h : w &&& m = 0#32) :
    setField w lo k 0#k &&& m = 0#32 := by
  apply BitVec.eq_of_getLsbD_eq
  intro i hi
  have hb : (w &&& m).getLsbD i = false := by rw [h]; simp
  rw [BitVec.getLsbD_and] at hb
  rw [BitVec.getLsbD_and, getLsbD_setField, BitVec.getLsbD_zero]
  split
  · simp
  · rw [hb, BitVec.getLsbD_zero]

theorem inner_drawn (s : State) : Inner s s.drawn := by
  constructor <;> first | rfl | exact id | exact fun _ => id | exact fun _ => rfl

theorem inner_signal (s : State) (n : Nat) : Inner s (s.signal n) := by
  constructor <;> first | rfl | exact id | exact fun _ => id | exact fun _ => rfl

theorem inner_setDline (s : State) (i : Nat) (l : CacheLine) : Inner s (s.setDline i l) := by
  constructor <;> first | rfl | exact id | exact fun _ => id | exact fun _ => rfl | simp

/-- Without an instruction cache no word is in it. -/
theorem ihomes_none (c : Config) (k : Nat) (h : c.icacheSize = 0) : c.ihomes k = [] := by
  unfold Config.ihomes
  split
  · rfl
  · rw [h]
    rfl

/-- Nothing added. -/
theorem addWords_none {β : Type} [DecidableEq β] (new : Nat → List β) (m : List (Nat × List β)) (ks : List Nat)
    (h : ∀ k ∈ ks, new k = []) : addWords new m ks = m := by
  unfold addWords
  induction ks generalizing m with
  | nil => rfl
  | cons k ks ih =>
    rw [List.foldl_cons, if_pos (h k (List.mem_cons_self))]
    exact ih _ fun j hj => h j (List.mem_cons_of_mem _ hj)

/-- Keeping the old words of a change that is inside the memory system stays inside it. -/
theorem Inner.keepPrefetched {s t : State} (h : Inner s t) (ks : List Nat) : Inner s (s.keepPrefetched t ks) := by
  unfold State.keepPrefetched
  split
  · next hp =>
    exact { h with
      prefetchedWf := fun hw => addWords_wf _ _ _ hw
      prefetchedNone := fun hn => absurd hp (by simp [hn])
      readAheadWf := fun hw => addWords_wf _ _ _ hw
      readAheadNone := fun hn => addWords_none _ _ _ fun k _ => by rw [ihomes_none _ k hn]; rfl }
  · exact h

/-- An instruction line is replaced only where there is an instruction cache. -/
theorem inner_setIline (s : State) (i : Nat) (l : CacheLine) (hc : s.cfg.icacheSize ≠ 0) : Inner s (s.setIline i l) :=
  { Inner.refl s with
    icacheLength := by simp
    prefetchedWf := fun h => addWords_wf _ _ _ h
    prefetchedNone := fun h => absurd h (by simp [Config.prefetches, hc]) }

theorem inner_aheadFlushed (s : State) (i : Nat) (hc : s.cfg.icacheSize ≠ 0) : Inner s (s.aheadFlushed i) :=
  { Inner.refl s with
    prefetchedWf := fun h => addWords_wf _ _ _ h
    prefetchedNone := fun h => absurd h (by simp [Config.prefetches, hc])
    readAheadWf := fun h => foldl_filter_wf _ _ _ h
    readAheadNone := fun h => absurd h hc }

theorem inner_setTcmMark (s : State) (a : Nat) (m : EccMark) : Inner s (s.setTcmMark a m) := by
  constructor <;> first | rfl | exact id | exact fun _ => id | exact fun _ => rfl | exact fun h => sparseSet_wf _ _ _ _ h

/-- Bytes put into memory, and canonical marks, with nothing kept of what they replace. -/
theorem inner_setMem (ram : Nat → Bool) (marks : List (Nat × EccMark)) (s : State) (a : Nat) (bs : List Byte)
    (hm : sparseWf EccMark.none s.tcmEcc = true → sparseWf EccMark.none marks = true) :
    Inner s { s with mem := busStore ram s.mem a bs, tcmEcc := marks } :=
  { Inner.refl s with memWf := fun h => busStore_wf _ _ _ _ h, tcmWf := hm }

theorem marksWritten_wf (s : State) (a n : Nat) (h : sparseWf EccMark.none s.tcmEcc = true) :
    sparseWf EccMark.none (s.marksWritten a n) = true := by
  unfold State.marksWritten
  split
  · exact sparseSet_wf _ _ _ _ h
  · exact h

theorem inner_busWrite (s : State) (a : Nat) (bs : List Byte) : Inner s (s.busWrite a bs) :=
  (inner_setMem _ _ s a bs (marksWritten_wf s a _)).keepPrefetched _

theorem inner_lineWrite (s : State) (a : Nat) (bs : List Byte) : Inner s (s.lineWrite a bs) :=
  (inner_setMem _ _ s a bs id).keepPrefetched _

/-- A field that a reserved bit excludes, put into a word whose reserved bits are 0. -/
theorem setField_field_and (w u : Word) (lo k : Nat) (m : Word) (hw : w &&& m = 0#32) (hu : u &&& m = 0#32) :
    setField w lo k (field u lo k) &&& m = 0#32 := by
  apply BitVec.eq_of_getLsbD_eq
  intro i hi
  have h1 : (w &&& m).getLsbD i = false := by rw [hw]; simp
  have h2 : (u &&& m).getLsbD i = false := by rw [hu]; simp
  rw [BitVec.getLsbD_and] at h1 h2
  rw [BitVec.getLsbD_and, getLsbD_setField, BitVec.getLsbD_zero]
  split
  · next hr =>
    rw [getLsbD_field]
    have he : lo + (i - lo) = i := by omega
    rw [he]
    cases hb : u.getLsbD i
    · simp
    · rw [hb] at h2
      simp at h2
      simp [h2]
  · exact h1

theorem inner_injectionDone (s : State) (lo : Nat) : Inner s (s.injectionDone lo) := by
  have hm : s.eccinj &&& 0xFFC00000#32 = 0#32 → (s.injectionDone lo).eccinj &&& 0xFFC00000#32 = 0#32 := by
    intro h
    unfold State.injectionDone
    split
    · exact setField_zero_and _ _ _ _ h
    · exact h
  have ho : s.eccinj &&& 0xFFC00000#32 = 0#32 → s.eccinjOld &&& 0xFFC00000#32 = 0#32 →
      (s.injectionDone lo).eccinjOld &&& 0xFFC00000#32 = 0#32 := by
    intro h h'
    unfold State.injectionDone
    split
    · dsimp only
      split
      · exact setField_field_and _ _ _ _ _ h' h
      · exact h'
    · exact h'
  constructor <;> first | exact hm | exact ho | simp

theorem inner_busReadState (ram : Nat → Bool) (s : State) (a n : Nat) : Inner s (busReadState ram s a n) := by
  unfold busReadState
  split
  · exact Inner.refl s
  · exact inner_drawn s

/-! ## The answers of a part of an instruction -/

/-- A part of an instruction that stays inside the memory system: a value and an `Inner` state, an exception of an `Inner`
state, or a fault. -/
def Flow.Within {α : Type} (s : State) (m : Flow α) : Prop :=
  match m with
  | .ok _ t => Inner s t
  | .stop o => (∃ x t, Inner s t ∧ o = raise x t) ∨ ∃ f, o = .fault f

theorem Flow.within_ok {α : Type} {s t : State} {a : α} (h : Inner s t) : Flow.Within s (.ok a t) := h

theorem Flow.within_raise {α : Type} {s t : State} (x : Exc) (h : Inner s t) :
    Flow.Within s (.stop (raise x t) : Flow α) := .inl ⟨x, t, h, rfl⟩

theorem Flow.within_fault {α : Type} {s : State} (f : Fault) : Flow.Within s (.stop (.fault f) : Flow α) := .inr ⟨f, rfl⟩

theorem Flow.Within.mono {α : Type} {s t : State} {m : Flow α} (h : Inner s t) (hm : m.Within t) : m.Within s := by
  cases m with
  | ok a u => exact h.trans hm
  | stop o =>
    rcases hm with ⟨x, u, hu, ho⟩ | hf
    · exact .inl ⟨x, u, h.trans hu, ho⟩
    · exact .inr hf

theorem Flow.Within.andThen {α β : Type} {s : State} {m : Flow α} {k : α → State → Flow β} (hm : m.Within s)
    (hk : ∀ a t, m = .ok a t → (k a t).Within t) : (m.andThen k).Within s := by
  cases m with
  | ok a t => exact Flow.Within.mono hm (hk a t rfl)
  | stop o => exact hm

/-! ## Tightly-coupled memory -/

theorem inner_flipTcm (ram : Nat → Bool) (s : State) (a : Nat) (ks : List Nat) : Inner s (State.flipTcm ram s a ks) :=
  inner_setMem _ _ _ _ _ id

theorem inner_correctTcm (ram : Nat → Bool) (s : State) (a : Nat) : Inner s (State.correctTcm ram s a) :=
  (inner_flipTcm _ _ _ _).trans (inner_setTcmMark _ _ _)

theorem tcmRead_within (ram : Nat → Bool) (x : Exc) (re ue a n : Nat) (s : State) :
    (tcmRead ram x re ue a n s).Within s := by
  unfold tcmRead
  split
  · exact Flow.within_ok (inner_busReadState ram s a n)
  · exact Flow.within_ok (((inner_correctTcm _ _ _).trans (inner_busReadState _ _ _ _)).trans (inner_signal _ _))
  · exact Flow.within_raise _ (inner_signal _ _)
  · exact Flow.within_ok ((inner_drawn s).trans (inner_signal _ _))

theorem inner_tcmWrite (s : State) (k a : Nat) (bs : List Byte) : Inner s (s.tcmWrite k a bs) := by
  unfold State.tcmWrite
  split
  · exact (((inner_setMem _ _ s a bs id).trans ((inner_flipTcm _ _ _ _).trans (inner_setTcmMark _ _ _))).keepPrefetched _).trans
      (inner_injectionDone _ _)
  · exact inner_busWrite s a bs

/-! ## The data cache -/

theorem inner_dtagRead (s : State) (i : Nat) (l : CacheLine) : Inner s (s.dtagRead i l) := by
  unfold State.dtagRead
  split
  · exact Inner.refl s
  · exact (inner_setDline _ _ _).trans (inner_signal _ _)
  · exact (inner_drawn s).trans (inner_signal _ _)
  · exact (inner_drawn s).trans (inner_signal _ _)

/-- The error flag and the draw counter belong to the memory system. -/
theorem inner_flags (s : State) (b : Bool) (n : Nat) : Inner s { s with wbError := b, draws := n } := by
  constructor <;> first | rfl | exact id | exact fun _ => id | exact fun _ => rfl

theorem inner_wbError (s : State) (b : Bool) : Inner s { s with wbError := b } := by
  constructor <;> first | rfl | exact id | exact fun _ => id | exact fun _ => rfl

theorem inner_writeBack (s : State) (l : CacheLine) : Inner s (s.writeBack l) := by
  unfold State.writeBack
  simp only
  have h := (inner_injectionDone s injDcWb).trans
    (inner_flags _ ((s.injectionDone injDcWb).wbError || (s.eccOn && l.tagEcc == .double && s.eccRaises))
      (if (s.eccOn && l.tagEcc == .double) = true then (s.injectionDone injDcWb).draws + 1
        else (s.injectionDone injDcWb).draws))
  split
  · exact h.trans (inner_lineWrite _ _ _)
  · exact (h.trans (inner_lineWrite _ _ _)).trans (inner_signal _ _)
  · exact (((h.trans (inner_lineWrite _ _ _)).trans (inner_drawn _)).trans (inner_signal _ _)).trans (inner_wbError _ _)
  · exact ((h.trans (inner_lineWrite _ _ _)).trans (inner_drawn _)).trans (inner_signal _ _)

theorem inner_evict (s : State) (i : Nat) : Inner s (s.evict i) := by
  unfold State.evict
  split
  · exact inner_writeBack s _
  · exact Inner.refl s

theorem inner_dfill (s : State) (i a : Nat) : Inner s (s.dfill i a) := by
  unfold State.dfill
  exact (((inner_busReadState _ _ _ _).trans (inner_setDline _ _ _)).trans (inner_injectionDone _ _)).trans
    (inner_injectionDone _ _)

theorem dpresent_within (va : Word) (i a : Nat) (s : State) : (dpresent va i a s).Within s := by
  unfold dpresent
  simp only
  split
  · split
    · exact Flow.within_raise _ (inner_dtagRead _ _ _)
    · split
      · exact Flow.within_ok (inner_dtagRead _ _ _)
      · exact Flow.within_ok (((inner_dtagRead _ _ _).trans (inner_evict _ _)).trans (inner_dfill _ _ _))
  · exact Flow.within_ok (inner_dfill _ _ _)

theorem dcacheRead_within (va : Word) (a n : Nat) (s : State) : (dcacheRead va a n s).Within s := by
  unfold dcacheRead
  refine (dpresent_within va _ a s).andThen fun _ t _ => ?_
  dsimp only
  split
  · exact Flow.within_ok (Inner.refl t)
  · split
    · exact Flow.within_ok (Inner.refl t)
    · split
      · exact Flow.within_ok ((inner_setDline _ _ _).trans (inner_signal _ _))
      · exact Flow.within_ok ((inner_dfill _ _ _).trans (inner_signal _ _))
    · exact Flow.within_raise _ (inner_signal _ _)
    · exact Flow.within_ok ((inner_drawn t).trans (inner_signal _ _))

theorem inner_dstore (s : State) (i a : Nat) (bs : List Byte) : Inner s (s.dstore i a bs) := by
  unfold State.dstore
  simp only
  split
  · exact (inner_injectionDone _ _).trans (inner_setDline _ _ _)
  · exact ((inner_injectionDone _ _).trans (inner_injectionDone _ _)).trans (inner_setDline _ _ _)

theorem dcacheWrite_within (va : Word) (a : Nat) (bs : List Byte) (s : State) : (dcacheWrite va a bs s).Within s := by
  unfold dcacheWrite
  exact (dpresent_within va _ a s).andThen fun _ t _ => Flow.within_ok (inner_dstore _ _ _ _)

theorem inner_dinvalidate (s : State) (i : Nat) : Inner s (s.dinvalidate i) := by
  unfold State.dinvalidate
  exact (inner_setDline _ _ _).trans (inner_injectionDone _ _)

theorem inner_dcacheFlushLine (s : State) (addr : Word) : Inner s (s.dcacheFlushLine addr) := by
  unfold State.dcacheFlushLine
  split
  · exact Inner.refl s
  · simp only
    refine Inner.trans (Inner.trans ?_ (inner_evict _ _)) (inner_dinvalidate _ _)
    split
    · exact inner_dtagRead _ _ _
    · exact Inner.refl s

theorem inner_dcacheInitLine (s : State) (addr : Word) : Inner s (s.dcacheInitLine addr) := by
  unfold State.dcacheInitLine
  split
  · exact Inner.refl s
  · exact inner_dinvalidate _ _

theorem dcacheCompare_within (addr : Word) (a : Nat) (s : State) : (dcacheCompare addr a s).Within s := by
  unfold dcacheCompare
  simp only
  split
  · exact Flow.within_ok (Inner.refl s)
  · split
    · exact Flow.within_raise _ (inner_dtagRead _ _ _)
    · exact Flow.within_ok (inner_dtagRead _ _ _)

theorem dcacheFlushAddr_within (addr : Word) (a : Nat) (s : State) : (dcacheFlushAddr addr a s).Within s := by
  unfold dcacheFlushAddr
  refine (dcacheCompare_within addr a s).andThen fun hit t _ => Flow.within_ok ?_
  split
  · exact (inner_evict _ _).trans (inner_dinvalidate _ _)
  · exact Inner.refl t

theorem dcacheInitAddr_within (addr : Word) (a : Nat) (s : State) : (dcacheInitAddr addr a s).Within s := by
  unfold dcacheInitAddr
  refine (dcacheCompare_within addr a s).andThen fun hit t _ => Flow.within_ok ?_
  split
  · exact inner_dinvalidate _ _
  · exact Inner.refl t

/-! ## The instruction cache -/

theorem inner_ifill (s : State) (i a : Nat) (hc : s.cfg.icacheSize ≠ 0) : Inner s (s.ifill i a) := by
  unfold State.ifill
  have h := inner_busReadState s.cfg.ilineRam s (a / 32 * 32) 32
  exact ((h.trans (inner_setIline _ _ _ (by rw [h.cfg]; exact hc))).trans (inner_injectionDone _ _)).trans
    (inner_injectionDone _ _)

theorem inner_isignal (s : State) (l : CacheLine) : Inner s (s.isignal l) := by
  unfold State.isignal
  simp only
  split <;> split <;> first
    | exact Inner.refl s
    | exact inner_signal _ _
    | exact (inner_signal _ _).trans (inner_signal _ _)

theorem icacheRead_within (va : Word) (a : Nat) (s : State) (hc : s.cfg.icacheSize ≠ 0) : (icacheRead va a s).Within s := by
  have hs : ∀ l, Inner s (if (l.valid && s.irefetch l) = true then s.isignal l else s) := fun l => by
    split
    · exact inner_isignal _ _
    · exact Inner.refl s
  unfold icacheRead
  simp only
  split
  · exact Flow.within_ok (Inner.refl s)
  · exact Flow.within_ok ((hs _).trans (inner_ifill _ _ _ (by rw [(hs _).cfg]; exact hc)))

theorem inner_icacheInvalidateLine (s : State) (addr : Word) : Inner s (s.icacheInvalidateLine addr) := by
  unfold State.icacheInvalidateLine
  split
  · exact Inner.refl s
  · next hc => exact (inner_setIline _ _ _ hc).trans (inner_aheadFlushed _ _ hc)

/-! ## Translation -/

theorem inner_tlbSettled (s : State) (vpn : BitVec 20) : Inner s (s.tlbSettled vpn) := by
  have key : ∀ (u : State) (f : List TlbEntry) (n : Nat), Inner s u → f.length = s.tlb.length →
      Inner s { u with tlb := f, draws := n } := by
    intro u f n hu hf
    exact { hu with tlbLength := hf }
  unfold State.tlbSettled
  simp only
  split
  · exact Inner.refl s
  · refine key _ _ _ ?_ (by simp)
    split <;> split <;> first
      | exact Inner.refl s
      | exact inner_signal _ _
      | exact (inner_signal _ _).trans (inner_signal _ _)

theorem tlbLookup_within {α : Type} (va : Word) (s : State) (miss : Exc) (hit : TlbEntry → State → Flow α)
    (hh : ∀ e t, (hit e t).Within t) : (tlbLookup va s miss hit).Within s := by
  unfold tlbLookup
  split
  · exact Flow.within_raise _ (inner_tlbSettled _ _)
  · exact Flow.Within.mono (inner_tlbSettled _ _) (hh _ _)
  · exact Flow.within_fault _

theorem mmuFetch_within (va : Word) (s : State) : (mmuFetch va s).Within s := by
  unfold mmuFetch
  split
  · split
    · exact Flow.within_raise _ (Inner.refl s)
    · exact Flow.within_ok (Inner.refl s)
  · split
    · exact Flow.within_raise _ (inner_tlbSettled _ _)
    · split
      · exact Flow.within_raise _ (Inner.refl s)
      · refine tlbLookup_within _ _ _ _ fun e t => ?_
        split
        · exact Flow.within_ok (Inner.refl t)
        · exact Flow.within_raise _ (Inner.refl t)

theorem mmuData_within (va : Word) (kind : AccessKind) (s : State) : (mmuData va kind s).Within s := by
  unfold mmuData
  split
  · exact Flow.within_ok (Inner.refl s)
  · split
    · exact Flow.within_raise _ (inner_tlbSettled _ _)
    · refine tlbLookup_within _ _ _ _ fun e t => ?_
      split
      · exact Flow.within_raise _ (Inner.refl t)
      · exact Flow.within_ok (Inner.refl t)

theorem mpuFetch_within (va : Word) (s : State) : (mpuFetch va s).Within s := by
  unfold mpuFetch
  split
  · split
    · split
      · exact Flow.within_fault _
      · exact Flow.within_ok (Inner.refl s)
      · split
        · exact Flow.within_fault _
        · exact Flow.within_ok (Inner.refl s)
    · exact Flow.within_ok (Inner.refl s)
  · exact Flow.within_ok (Inner.refl s)

theorem mpuData_within (va : Word) (a : Nat) (kind : AccessKind) (s : State) : (mpuData va a kind s).Within s := by
  unfold mpuData
  split
  · split
    · split
      · exact Flow.within_fault _
      · exact Flow.within_raise _ (Inner.refl s)
      · split
        · exact Flow.within_fault _
        · exact Flow.within_ok (Inner.refl s)
        · exact Flow.within_raise _ (Inner.refl s)
    · exact Flow.within_raise _ (Inner.refl s)
  · exact Flow.within_ok (Inner.refl s)

theorem translateData_within (va : Word) (kind : AccessKind) (s : State) : (translateData va kind s).Within s := by
  unfold translateData
  split
  · exact mmuData_within va kind s
  · refine (mpuData_within va _ kind s).andThen fun mt t _ => Flow.within_ok ?_
    split
    · exact inner_drawn t
    · exact Inner.refl t

theorem userAddressCheck_within (va : Word) (s : State) : (userAddressCheck va s).Within s := by
  unfold userAddressCheck
  split
  · exact Flow.within_raise _ (Inner.refl s)
  · exact Flow.within_ok (Inner.refl s)

/-! ## Access -/

theorem physRead_within (va : Word) (io cacheable : Bool) (a n : Nat) (s : State) :
    (physRead va io cacheable a n s).Within s := by
  unfold physRead
  split
  · exact tcmRead_within _ _ _ _ _ _ s
  · split
    · exact dcacheRead_within va a n s
    · exact Flow.within_ok (inner_busReadState _ _ _ _)

theorem physWrite_within (va : Word) (io cacheable : Bool) (a : Nat) (bs : List Byte) (s : State) :
    (physWrite va io cacheable a bs s).Within s := by
  unfold physWrite
  split
  · exact Flow.within_ok (inner_tcmWrite _ _ _ _)
  · split
    · exact dcacheWrite_within va a bs s
    · exact Flow.within_ok (inner_busWrite _ _ _)

theorem inner_scramble (s : State) (io : Bool) (va : Word) (n : Nat) : Inner s (s.scramble io va n) := by
  have h := (inner_setMem s.cfg.dataRam _ s (flatPhysical s.cfg va) (freeBytes s.draws n)
    (marksWritten_wf s (flatPhysical s.cfg va) n)).trans (inner_drawn _)
  unfold State.scramble
  simp only
  split
  · exact (h.trans (inner_setDline _ _ _)).trans (inner_drawn _)
  · exact h

theorem alignedWrite_within (io : Bool) (va : Word) (bs : List Byte) (s : State) :
    (alignedWrite io va bs s).Within s := by
  unfold alignedWrite
  exact (translateData_within va .store s).andThen fun t u _ => physWrite_within va io t.2 t.1 bs u

/-- Everything a load can do before its register write (20_memory.md R110, 60_exceptions.md R431). -/
theorem memRead_within (io : Bool) (va : Word) (n : Nat) (extend : Word → Word) (s : State) :
    (memRead io va n extend s).Within s := by
  unfold memRead
  refine (userAddressCheck_within va s).andThen fun _ t _ => ?_
  split
  · refine (translateData_within va .load t).andThen fun p u _ => ?_
    refine (physRead_within va io p.2 p.1 n u).andThen fun bs w _ => ?_
    split
    · exact Flow.within_ok (Inner.refl w)
    · exact Flow.within_ok (inner_drawn w)
  · split
    · exact Flow.within_raise _ (Inner.refl t)
    · exact Flow.within_ok (inner_drawn t)

/-- Everything a store can do (20_memory.md R111, 60_exceptions.md R431). -/
theorem memWrite_within (io : Bool) (va : Word) (n : Nat) (v : Word) (s : State) : (memWrite io va n v s).Within s := by
  unfold memWrite
  refine (userAddressCheck_within va s).andThen fun _ t _ => ?_
  split
  · exact alignedWrite_within _ _ _ t
  · split
    · exact Flow.within_raise _ (Inner.refl t)
    · exact Flow.within_ok (((inner_scramble _ _ _ _).trans (inner_scramble _ _ _ _)).keepPrefetched _)

theorem cacheOpTranslate_within (va : Word) (kind : AccessKind) (s : State) : (cacheOpTranslate va kind s).Within s := by
  unfold cacheOpTranslate
  refine (userAddressCheck_within va s).andThen fun _ t _ => ?_
  exact (translateData_within va kind t).andThen fun p u _ => Flow.within_ok (Inner.refl u)

/-! ## Fetch -/

theorem physFetch_within (va : Word) (a : Nat) (s : State) : (physFetch va a s).Within s := by
  unfold physFetch
  split
  · split
    · exact Flow.within_ok (Inner.refl s)
    · exact (tcmRead_within _ _ _ _ _ _ s).andThen fun bs t _ => Flow.within_ok (Inner.refl t)
  · split
    · next hc => exact (icacheRead_within va a s (by simp at hc; exact hc.1)).andThen fun bs t _ => Flow.within_ok (Inner.refl t)
    · exact Flow.within_ok (inner_busReadState _ _ _ _)

/-- A late exception of the fetch is an exception taken with at most a signal raised before. -/
theorem takeLate_cases (s : State) (l : LateExc) : ∃ x u, Inner s u ∧ s.takeLate l = u.take x := by
  cases l with
  | mpuInstr => exact ⟨_, s, Inner.refl s, rfl⟩
  | eccFetch k => exact ⟨_, _, inner_signal s _, rfl⟩

theorem fetchAt_within (va : Word) (a : Nat) (s : State) : (fetchAt va a s).Within s := by
  unfold fetchAt
  refine (physFetch_within va a s).andThen fun f t _ => ?_
  split
  · exact Flow.within_ok (Inner.refl t)
  · exact Flow.within_ok (inner_drawn t)

/-- Everything a fetch can do (20_memory.md R113). -/
theorem fetch_within (s : State) : (fetch s).Within s := by
  unfold fetch
  split
  · split
    · exact (mmuFetch_within s.pc s).andThen fun a t _ => fetchAt_within s.pc a t
    · refine (mpuFetch_within s.pc s).andThen fun b t _ => ?_
      have hw := fetchAt_within s.pc s.pc.toNat t
      cases hp : fetchAt s.pc s.pc.toNat t with
      | stop o => rw [hp] at hw; exact hw
      | ok w u =>
        rw [hp] at hw
        simp only [Flow.andThen]
        split
        · exact Flow.within_ok (Inner.refl t)
        · exact Flow.within_ok hw
  · exact Flow.within_fault _

end Sys2Proof.Machine
end

