-- ==== Sys2Proof/Laws/Exceptions.lean ====
section
/-! SUPPORT. What each shared operation over control flow can do: the status words, taking an exception, a break and an
interrupt, the returns, the transfers, and the wrappers of privileged and optional instructions. -/

namespace Sys2Proof

/-! ## Status words -/

/-- A word in the form a status register holds stays so (10_state.md R30). -/
@[simp] theorem Config.normStatus_idem (c : Config) (w : Word) : c.normStatus (c.normStatus w) = c.normStatus w := by
  apply BitVec.eq_of_getLsbD_eq
  intro i hi
  simp only [Config.normStatus, BitVec.getLsbD_or, BitVec.getLsbD_and]
  cases w.getLsbD i <;> cases c.statusMask.getLsbD i <;> cases c.statusFixed.getLsbD i <;> rfl

theorem bit_flagMask (on : Bool) (n m : Nat) (hn : n < 32) : bit (flagMask on n) m = (on && decide (m = n)) := by
  unfold bit flagMask
  rw [getLsbD_place]
  by_cases h : m = n
  · subst h
    cases on <;> simp [hn]
  · by_cases hlt : n ≤ m
    · have : 0 < m - n := by omega
      have h1 : (BitVec.ofBool on).getLsbD (m - n) = false := BitVec.getLsbD_of_ge _ _ (by omega)
      simp [h, h1]
    · simp [h, hlt]

/-- Every field but RSIE: the implemented part of it (10_state.md R30). -/
theorem Config.bit_normStatus (c : Config) (w : Word) (n : Nat) (h : n ≠ 23) :
    bit (c.normStatus w) n = (bit w n && bit c.statusMask n) := by
  have hf : bit c.statusFixed n = false := by
    rw [Config.statusFixed, bit_flagMask _ _ _ (by omega)]
    simp [h]
  unfold bit at *
  simp only [Config.normStatus, BitVec.getLsbD_or, BitVec.getLsbD_and, hf, Bool.or_false]

theorem Config.field_normStatus (c : Config) (w : Word) (lo k : Nat) (h : lo + k ≤ 23 ∨ 23 < lo) :
    field (c.normStatus w) lo k = field w lo k &&& field c.statusMask lo k := by
  apply BitVec.eq_of_getLsbD_eq
  intro i hi
  have := c.bit_normStatus w (lo + i) (by omega)
  unfold bit at this
  rw [getLsbD_field, this, BitVec.getLsbD_and, getLsbD_field, getLsbD_field]
  simp [hi]

namespace Machine

/-! ## Taking an exception (60_exceptions.md R450) -/

/-- After a nonbreak exception the processor is in supervisor mode, with maskable interrupts disabled, in the normal
register set (60_exceptions.md R451). -/
theorem entryStatus_mode (c : Config) (w : Word) :
    stU (entryStatus c w) = false ∧ stPie (entryStatus c w) = false ∧ stCrs (entryStatus c w) = 0#6 := by
  have hcrs : ∀ u : Word, field (setCrs 0#6 u) 10 6 = 0#6 := fun u => field_setField_same u 10 0#6 (by omega)
  refine ⟨?_, ?_, ?_⟩
  · unfold entryStatus stU
    rw [Config.bit_normStatus _ _ _ (by omega)]
    simp only [setCrs, setEh, setU]
    rw [bit_setField_other _ _ _ _ (by omega), bit_setBit_other _ _ _ _ (by omega), bit_setBit_same _ _ _ (by omega)]
    rfl
  · unfold entryStatus stPie
    rw [Config.bit_normStatus _ _ _ (by omega)]
    simp only [setCrs, setEh, setU, setPie]
    rw [bit_setField_other _ _ _ _ (by omega), bit_setBit_other _ _ _ _ (by omega), bit_setBit_other _ _ _ _ (by omega),
      bit_setBit_same _ _ _ (by omega)]
    rfl
  · unfold entryStatus stCrs
    rw [Config.field_normStatus _ _ _ _ (by omega), hcrs]
    simp

/-- Taking an exception changes only these fields. -/
theorem State.nonbreakEntry_only (s : State) (x : EntryArgs) (ret : Word) :
    s.nonbreakEntry x ret = { s with
      pc := entryVector s.cfg x (stEh s.status), status := entryStatus s.cfg s.status,
      gpr := (s.saveForEntry ret).gpr, shadow := (s.saveForEntry ret).shadow, rfEcc := (s.saveForEntry ret).rfEcc,
      eccinj := (s.saveForEntry ret).eccinj, draws := (s.saveForEntry ret).draws,
      estatus := if stEh s.status then s.estatus else s.status,
      pteaddr := (s.nonbreakEntry x ret).pteaddr, tlbmisc := (s.nonbreakEntry x ret).tlbmisc,
      exception := (s.nonbreakEntry x ret).exception, badaddr := (s.nonbreakEntry x ret).badaddr,
      prefetched := [], eccinjOld := 0#32, eccBus := (s.nonbreakEntry x ret).eccBus } := by
  have hsv : s.saveForEntry ret = { s with
      gpr := (s.saveForEntry ret).gpr, shadow := (s.saveForEntry ret).shadow, rfEcc := (s.saveForEntry ret).rfEcc,
      eccinj := (s.saveForEntry ret).eccinj, draws := (s.saveForEntry ret).draws,
      estatus := if stEh s.status then s.estatus else s.status } := by
    unfold State.saveForEntry
    split
    · rfl
    · rw [s.setGpr_only 0 29#5 ret]
  generalize (s.saveForEntry ret).gpr = g at hsv ⊢
  generalize (s.saveForEntry ret).shadow = sh at hsv ⊢
  generalize (s.saveForEntry ret).rfEcc = r at hsv ⊢
  generalize (s.saveForEntry ret).eccinj = e at hsv ⊢
  generalize (s.saveForEntry ret).draws = d at hsv ⊢
  unfold State.nonbreakEntry
  rw [hsv]
  unfold State.eehOnEntry State.causeOnEntry State.mmuOnEntry
  dsimp only
  cases hm : s.cfg.mmu <;> cases hf : s.cfg.isF <;> cases hx : (x.eccFatal.isSome && stEh s.status) <;>
    simp [hm, hf, hx, State.signal, State.pipelineFlushed]

/-- A break changes only these fields (60_exceptions.md R460). -/
theorem State.breakEntry_only (s : State) :
    s.breakEntry = { s with
      pc := s.cfg.vector s.cfg.breakAddr, status := breakStatus s.cfg s.status, bstatus := s.status,
      debugMode := s.cfg.hasDebug, prefetched := [], eccinjOld := 0#32,
      gpr := (s.setGpr 0 30#5 s.nextPc).gpr, shadow := (s.setGpr 0 30#5 s.nextPc).shadow,
      rfEcc := (s.setGpr 0 30#5 s.nextPc).rfEcc, eccinj := (s.setGpr 0 30#5 s.nextPc).eccinj,
      draws := (s.setGpr 0 30#5 s.nextPc).draws } := by
  unfold State.breakEntry State.pipelineFlushed
  rw [s.setGpr_only 0 30#5 s.nextPc]

/-! ## Control flow -/

/-- A transfer that answers a next state goes to an aligned target, or takes the misaligned-destination exception
(45_program_control.md R361). -/
theorem transfer_cases {target : Word} {commit s t : State} (h : transfer target commit s = .next t) :
    (field target 0 2 = 0#2 ∧ t = { commit with pc := target }) ∨
    (field target 0 2 ≠ 0#2 ∧ s.cfg.misalignedChecked = true ∧ t = s.take (.misalignedDest target)) := by
  unfold transfer at h
  split at h
  · next ha =>
    injection h with h
    exact .inl ⟨ha, h.symm⟩
  · next ha =>
    split at h
    · next hc =>
      injection h with h
      exact .inr ⟨ha, hc, h.symm⟩
    · cases h

/-- A supervisor-only instruction: the exception in user mode, its effect otherwise (46_other_control.md R391). -/
theorem supervisorOnly_cases (s : State) (rest : Result) :
    (stU s.status = true ∧ supervisorOnly s rest = .next (s.take .supervisorOnlyInstr)) ∨
    (stU s.status = false ∧ supervisorOnly s rest = rest) := by
  unfold supervisorOnly raise
  cases h : stU s.status <;> simp

/-- An optional instruction: the exception where it is absent, its effect otherwise (41_arith_logic.md R293). -/
theorem whenImplemented_cases (present : Bool) (s : State) (rest : Result) :
    (present = false ∧ whenImplemented present s rest = .next (s.take .unimplemented)) ∨
    (present = true ∧ whenImplemented present s rest = rest) := by
  cases present <;> simp [whenImplemented, raise]

/-- What an undefined word answers (30_encoding.md R211). -/
theorem illegalInstruction_cases (s : State) :
    (s.cfg.illegalChecked = true ∧ illegalInstruction s = .next (s.take .illegal)) ∨
    (s.cfg.illegalChecked = false ∧ illegalInstruction s = .fault .reservedWord) := by
  unfold illegalInstruction raise
  cases h : s.cfg.illegalChecked <;> simp

/-- A conditional branch that answers a next state: taken, not taken, or a misaligned target (45_program_control.md R361,
R362). -/
theorem opBranch_cases {rel : Word → Word → Bool} {a b : RegIdx} {imm16 : BitVec 16} {s t : State}
    (h : opBranch rel a b imm16 s = .next t) :
    (rel (s.reg a) (s.reg b) = true ∧ field (s.branchTarget imm16) 0 2 = 0#2
        ∧ t = { s with pc := s.branchTarget imm16 }) ∨
    (rel (s.reg a) (s.reg b) = false ∧ (t = s.advance ∨ t = s.drawn.advance)) ∨
    (field (s.branchTarget imm16) 0 2 ≠ 0#2 ∧ s.cfg.misalignedChecked = true
        ∧ (t = s.take (.misalignedDest (s.branchTarget imm16))
          ∨ t = s.drawn.take (.misalignedDest (s.branchTarget imm16)))) := by
  unfold opBranch at h
  split at h
  · next hr =>
    rcases transfer_cases h with ⟨h1, h2⟩ | ⟨h1, h2, h3⟩
    · exact .inl ⟨hr, h1, h2⟩
    · exact .inr (.inr ⟨h1, h2, .inl h3⟩)
  · next hr =>
    have hr' : rel (s.reg a) (s.reg b) = false := by simpa using hr
    split at h
    · injection h with h
      exact .inr (.inl ⟨hr', .inl h.symm⟩)
    · next hc =>
      have hc1 : field (s.branchTarget imm16) 0 2 ≠ 0#2 := fun e => hc (.inl e)
      have hc2 : s.cfg.misalignedChecked = true := by
        cases hm : s.cfg.misalignedChecked
        · exact absurd (.inr hm) hc
        · rfl
      split at h
      · injection h with h
        exact .inr (.inr ⟨hc1, hc2, .inr h.symm⟩)
      · injection h with h
        exact .inr (.inl ⟨hr', .inr h.symm⟩)

/-- A load that answers a next state: the value read goes to rB, or an exception is taken (40_data_transfer.md R241). -/
theorem opLoad_cases {io : Bool} {n : Nat} {extend : Word → Word} {b a : RegIdx} {imm16 : BitVec 16} {s t : State}
    (h : opLoad io n extend b a imm16 s = .next t) :
    (∃ v s1, memRead io (s.effAddr a imm16) n extend s = .ok v s1 ∧ Inner s s1 ∧ t = (s1.setLoaded b v).advance) ∨
    (∃ x s1, Inner s s1 ∧ t = s1.take x) := by
  unfold opLoad at h
  have hw := memRead_within io (s.effAddr a imm16) n extend s
  cases hm : memRead io (s.effAddr a imm16) n extend s with
  | ok v s1 =>
    rw [hm] at h hw
    injection h with h
    exact .inl ⟨v, s1, rfl, hw, h.symm⟩
  | stop o =>
    rw [hm] at h hw
    simp only [Flow.bind] at h
    rcases hw with ⟨x, s1, hi, ho⟩ | ⟨f, ho⟩
    · rw [ho] at h
      injection h with h
      exact .inr ⟨x, s1, hi, h.symm⟩
    · rw [ho] at h
      cases h

/-- A store that answers a next state: the store happened, or an exception is taken (40_data_transfer.md R241). -/
theorem opStore_cases {io : Bool} {n : Nat} {b a : RegIdx} {imm16 : BitVec 16} {s t : State}
    (h : opStore io n b a imm16 s = .next t) :
    (∃ s1, memWrite io (s.effAddr a imm16) n (s.reg b) s = .ok () s1 ∧ Inner s s1 ∧ t = s1.advance) ∨
    (∃ x s1, Inner s s1 ∧ t = s1.take x) := by
  unfold opStore at h
  have hw := memWrite_within io (s.effAddr a imm16) n (s.reg b) s
  cases hm : memWrite io (s.effAddr a imm16) n (s.reg b) s with
  | ok v s1 =>
    rw [hm] at h hw
    injection h with h
    exact .inl ⟨s1, rfl, hw, h.symm⟩
  | stop o =>
    rw [hm] at h hw
    simp only [Flow.bind] at h
    rcases hw with ⟨x, s1, hi, ho⟩ | ⟨f, ho⟩
    · rw [ho] at h
      injection h with h
      exact .inr ⟨x, s1, hi, h.symm⟩
    · rw [ho] at h
      cases h

end Machine

end Sys2Proof
end

