-- ==== Sys2Proof/Laws/Access.lean ====
section
/-! SUPPORT. What an aligned data access that reaches memory itself does, what the bytes of a bus read make as a word, and
what a transfer answers by the alignment of its target. -/

namespace Sys2Proof.Machine

open Sys2Proof

/-- A translation keeps the configuration. -/
theorem translateData_cfg {va : Word} {kind : AccessKind} {s s1 : State} {t : Nat × Bool} (h : translateData va kind s = .ok t s1) :
    s1.cfg = s.cfg := by
  have hw := translateData_within va kind s
  rw [h] at hw
  exact hw.cfg

/-- A read that reaches memory itself: the bytes of the bus there, extended, or any value where the platform maps nothing. -/
theorem State.Reaches.memRead_eq {s s1 : State} {va : Word} {io : Bool} {p : Nat} (h : s.Reaches va .load io p s1) (n : Nat)
    (extend : Word → Word) (ha : aligned va n = true) :
    memRead io va n extend s =
      if allMapped s.cfg p n then .ok (extend (wordOfByteList (busBytes s.cfg.dataRam s1 p n))) (s1.afterRead p n)
      else .ok (Config.freeWord (s1.afterRead p n).draws) (s1.afterRead p n).drawn := by
  obtain ⟨hu, c, ht, hp⟩ := h
  have hc : s1.cfg = s.cfg := translateData_cfg ht
  unfold memRead userAddressCheck
  rw [hu]
  simp only [Flow.andThen, ha, ht, Bool.false_eq_true, if_false, if_true]
  unfold physRead
  rw [← hc] at hp ⊢
  rcases hp with ⟨h1, h2⟩ | ⟨h1, h2⟩
  · obtain ⟨k, hk⟩ := Option.ne_none_iff_exists'.1 h1
    rw [hk]
    unfold tcmRead
    rw [State.eccRead_noEcc _ _ h2]
    rfl
  · rw [h1]
    simp only [h2]
    rfl

/-- A write that reaches memory itself: a store of the bus there. -/
theorem State.Reaches.memWrite_eq {s s1 : State} {va : Word} {io : Bool} {p : Nat} (h : s.Reaches va .store io p s1) (n : Nat)
    (v : Word) (ha : aligned va n = true) : memWrite io va n v s = .ok () (s1.busWrite p (storeBytes v n)) := by
  obtain ⟨hu, c, ht, hp⟩ := h
  have hc : s1.cfg = s.cfg := translateData_cfg ht
  unfold memWrite userAddressCheck
  rw [hu]
  simp only [Flow.andThen, ha, Bool.false_eq_true, if_false, if_true, alignedWrite, ht]
  unfold physWrite
  rw [← hc] at hp
  rcases hp with ⟨h1, h2⟩ | ⟨h1, h2⟩
  · obtain ⟨k, hk⟩ := Option.ne_none_iff_exists'.1 h1
    rw [hk]
    simp [State.tcmWrite, h2]
  · rw [h1]
    simp only [h2]
    rfl

theorem aligned_one (va : Word) : aligned va 1 = true := by simp [aligned, Nat.mod_one]

theorem aligned_iff (va : Word) (n : Nat) : aligned va n = true ↔ va.toNat % n = 0 := by simp [aligned]

/-- One byte of the bus as a word. -/
theorem busBytes_one (s : State) (p : Nat) :
    wordOfByteList (busBytes s.cfg.dataRam s p 1) = (s.busByte p 0).setWidth 32 := by
  show wordOfByteList [s.busByte p 0] = _
  simp [wordOfByteList, zext]

/-- Two bytes of the bus as a word, the lower address in the lower bits. -/
theorem busBytes_two (s : State) (p : Nat) :
    wordOfByteList (busBytes s.cfg.dataRam s p 2) = (s.busByte p 1 ++ s.busByte p 0).setWidth 32 := by
  show wordOfByteList [s.busByte p 0, s.busByte p 1] = _
  apply BitVec.eq_of_getLsbD_eq
  intro i hi
  simp only [wordOfByteList, zext, BitVec.getLsbD_or, BitVec.getLsbD_shiftLeft, BitVec.getLsbD_setWidth,
    BitVec.getLsbD_append]
  interval_cases i <;> simp

/-- Four bytes of the bus as a word. -/
theorem busBytes_four (s : State) (p : Nat) :
    wordOfByteList (busBytes s.cfg.dataRam s p 4)
      = s.busByte p 3 ++ s.busByte p 2 ++ s.busByte p 1 ++ s.busByte p 0 := by
  show wordOfByteList [s.busByte p 0, s.busByte p 1, s.busByte p 2, s.busByte p 3] = _
  apply BitVec.eq_of_getLsbD_eq
  intro i hi
  simp only [wordOfByteList, zext, BitVec.getLsbD_or, BitVec.getLsbD_shiftLeft, BitVec.getLsbD_setWidth,
    BitVec.getLsbD_append]
  interval_cases i <;> simp

/-- The two low bits of an instruction address are zero exactly when it is a multiple of 4. -/
theorem field_low_two (w : Word) : field w 0 2 = 0#2 ↔ w.toNat % 4 = 0 := by
  constructor
  · intro h
    have := congrArg BitVec.toNat h
    simpa [field] using this
  · intro h
    apply BitVec.eq_of_toNat_eq
    simpa [field] using h

/-- A transfer to an aligned target. -/
theorem transfer_aligned {target : Word} (commit s : State) (h : target.toNat % 4 = 0) :
    transfer target commit s = .next { commit with pc := target } := by
  unfold transfer
  rw [if_pos ((field_low_two target).2 h)]

/-- A transfer to a misaligned target where the check is on. -/
theorem transfer_misaligned {target : Word} (commit s : State) (h : target.toNat % 4 ≠ 0)
    (hc : s.cfg.misalignedChecked = true) :
    transfer target commit s = .next (s.take (.misalignedDest target)) := by
  unfold transfer
  rw [if_neg (mt (field_low_two target).1 h), hc]
  rfl

/-- A transfer to a misaligned target where the check is off. -/
theorem transfer_unchecked {target : Word} (commit s : State) (h : target.toNat % 4 ≠ 0)
    (hc : s.cfg.misalignedChecked = false) : transfer target commit s = .fault .misalignedTransfer := by
  unfold transfer
  rw [if_neg (mt (field_low_two target).1 h), hc]
  rfl

end Sys2Proof.Machine
end

