-- ==== Sys2Proof/Laws/Boundary.lean ====
section
/-! SUPPORT. What a step does at an instruction boundary where nothing is pending, and what reading registers and fetching
do on a core without ECC. -/

namespace Sys2Proof.Machine

open Sys2Proof

/-- Where nothing of 60_exceptions.md R440 is pending, a step fetches and runs the word at `pc`. -/
theorem boundary_quiet {s : State} (h : s.Quiet) (hc : s.SetImplemented) : boundary s = (fetch s).bind runWord := by
  obtain ⟨⟨h1, h2, h3, h4, h5⟩, h6, h7⟩ := h
  have hc' : s.crs ≤ s.cfg.shadowSets := hc
  unfold boundary writebackOr interruptOrRun fetchAndRun
  rw [h1, h2, h3, h4, h5, h6, h7, if_pos hc']
  rfl

/-- Clearing the signals of the last step changes nothing that a boundary looks at. -/
theorem State.Quiet.clear {s : State} (h : s.Quiet) : State.Quiet { s with eccBus := 0#30 } := h

theorem step_quiet {s : State} (h : s.Quiet) (hc : s.SetImplemented) :
    step s = (fetch { s with eccBus := 0#30 }).bind runWord := boundary_quiet h.clear hc

/-- On a core without ECC reading the source registers has no effect of its own. -/
theorem readSources_noEcc (l : List RegRef) (s : State) (h : s.cfg.ecc = false) : readSources l s = .ok () s := by
  induction l with
  | nil => rfl
  | cons r rs ih =>
    unfold readSources readSource
    rw [State.eccRead_noEcc _ _ h]
    exact ih

/-- An instruction that a check before any operand ends takes the exception of that check from the state it runs on, up to the draw
that chooses between two of them (U21), or has no defined behaviour where the check is off (U16). -/
theorem exec_trapsAtDecode {i : Instr} {s : State} (h : trapsAtDecode i s = true) :
    (∃ x ∈ [Exc.supervisorOnlyInstr, .illegal, .unimplemented], exec i s = raise x s ∨ exec i s = raise x s.drawn)
    ∨ exec i s = .fault .reservedWord := by
  have sup : ∀ rest, stU s.status = true → supervisorOnly s rest = raise .supervisorOnlyInstr s := fun _ h => if_pos h
  have unimp : ∀ (p : Bool) rest, (!p) = true → whenImplemented p s rest = raise .unimplemented s := by
    intro p rest hp
    cases p
    · rfl
    · cases hp
  have ill : ∀ u, illegalInstruction u = raise .illegal u ∨ illegalInstruction u = .fault .reservedWord := by
    intro u
    unfold illegalInstruction
    split
    · exact .inl rfl
    · exact .inr rfl
  have prev : ∀ rest, (stU s.status || s.cfg.shadowSets == 0) = true →
      (∃ x ∈ [Exc.supervisorOnlyInstr, .illegal, .unimplemented],
        previousSetAccess s rest = raise x s ∨ previousSetAccess s rest = raise x s.drawn)
      ∨ previousSetAccess s rest = .fault .reservedWord := by
    intro rest hp
    unfold previousSetAccess
    split
    · split
      · split
        · exact .inl ⟨.supervisorOnlyInstr, by simp, .inr rfl⟩
        · exact (ill s.drawn).imp (fun h => ⟨.illegal, by simp, .inr h⟩) id
      · exact (ill s).imp (fun h => ⟨.illegal, by simp, .inl h⟩) id
    · next hz => exact .inl ⟨.supervisorOnlyInstr, by simp, .inl (sup _ (by simpa [hz] using hp))⟩
  cases i with
  | initd | initi | eret | bret | rdctl | wrctl => exact .inl ⟨.supervisorOnlyInstr, by simp, .inl (sup _ h)⟩
  | rdprs | wrprs => exact prev _ h
  | mul | muli | mulxss | mulxsu | mulxuu | div | divu | initda => exact .inl ⟨.unimplemented, by simp, .inl (unimp _ _ h)⟩
  | _ => cases h

/-- A decoded word whose sources read and whose fetch has no late exception runs the instruction: on the state that the reading
leaves, or, where a check before any operand ends it, on the state before the reading. -/
theorem runDecoded_exec {i : Instr} {f : Fetched} {s s1 : State} (hr : readSources (sources i s) s = .ok () s1)
    (hl : f.late = none) (hc : (canonical i f.word || s1.cfg.nonCanonicalRuns) = true) :
    runDecoded i f s = exec i (if trapsAtDecode i s then s else s1) := by
  unfold runDecoded
  simp only [hr, Flow.bind, hl, hc, if_true]

/-- A late exception of the fetch is raised whatever the word, on a core without ECC. -/
theorem runWord_late (f : Fetched) (x : LateExc) (hf : f.late = some x) (s : State) (h : s.cfg.ecc = false) :
    runWord f s = .next (s.takeLate x) := by
  unfold runWord
  split
  · unfold runDecoded
    rw [readSources_noEcc _ _ h]
    simp only [Flow.bind, hf]
  · unfold runUndecoded
    simp only [hf]

/-- A fetch at a physical address on a core without ECC always gives a word, and no exception. -/
theorem physFetch_noEcc (va : Word) (a : Nat) (s : State) (h : s.cfg.ecc = false) :
    ∃ w s1, physFetch va a s = .ok { word := w, late := none } s1 := by
  unfold physFetch
  split
  · rw [State.eccRead_noEcc _ _ h]
    simp only
    unfold tcmRead
    rw [State.eccRead_noEcc _ _ h]
    exact ⟨_, _, rfl⟩
  · split
    · unfold icacheRead
      simp only
      split
      · exact ⟨_, _, rfl⟩
      · exact ⟨_, _, rfl⟩
    · exact ⟨_, _, rfl⟩

end Sys2Proof.Machine
end

