-- ==== Sys2Proof/Laws/Cache.lean ====
section
/-! SUPPORT. The data cache of a core without ECC: what a hit, a fill and a write-back do; and the page offset that every
translation keeps. -/

namespace Sys2Proof.Machine

open Sys2Proof

/-! ## Without ECC every tag, line and TLB entry reads as stored -/

@[simp] theorem State.lineTag_noEcc (s : State) (l : CacheLine) (h : s.cfg.ecc = false) : s.lineTag l = l.line := by
  unfold State.lineTag
  rw [State.eccRead_noEcc _ _ h]

@[simp] theorem State.tlbSeen_noEcc (s : State) (way : Nat) (e : TlbEntry) (h : s.cfg.ecc = false) : s.tlbSeen way e = e := by
  unfold State.tlbSeen
  rw [State.eccRead_noEcc _ _ h]

@[simp] theorem State.dtagRead_noEcc (s : State) (i : Nat) (l : CacheLine) (h : s.cfg.ecc = false) :
    s.dtagRead i l = s := by
  unfold State.dtagRead
  rw [State.eccRead_noEcc _ _ h]

@[simp] theorem State.eccOn_noEcc (s : State) (h : s.cfg.ecc = false) : s.eccOn = false := by simp [State.eccOn, h]

@[simp] theorem State.writeBack_noEcc (s : State) (l : CacheLine) (h : s.cfg.ecc = false) :
    s.writeBack l = s.lineWrite (l.line * 32) l.data := by
  unfold State.writeBack
  simp only [State.eccRead_noEcc s _ h, s.lineTag_noEcc l h, s.injectionDone_noEcc _ h, s.eccOn_noEcc h,
    s.injectedBits_noEcc _ _ h]
  simp

/-! ## Lines -/

theorem State.dline_length (s : State) (h : s.LinesWhole) (i : Nat) : (s.dline i).data.length = 32 := by
  unfold State.dline
  by_cases hi : i < s.dcache.length
  · rw [List.getD_eq_getElem _ _ hi]
    exact h.2 _ (List.getElem_mem hi)
  · rw [List.getD_eq_default _ _ (by omega)]
    rfl

theorem State.dline_setDline (s : State) (i j : Nat) (l : CacheLine) (hi : i < s.dcache.length) :
    (s.setDline i l).dline j = if j = i then l else s.dline j := by
  unfold State.dline State.setDline
  simp only [List.getD_eq_getElem?_getD, List.getElem?_set]
  by_cases h : j = i
  · subst h
    simp [hi]
  · simp [h, Ne.symm h]

/-- The index of a cached access names a line of the cache. -/
theorem State.Caches.index_lt {s s1 : State} {va : Word} {kind : AccessKind} {p : Nat} (h : s.Caches va kind p s1) :
    s.dindex va < s.dcache.length := by
  obtain ⟨-, hw, hl, -, -, c, -, -, hu⟩ := h
  rw [hl]
  have hpos : 0 < s.cfg.dcacheSize / 32 := by
    have h0 : s.cfg.dcacheSize ≠ 0 := by
      intro h0
      unfold usesDcache at hu
      simp [h0] at hu
    have hmem : s.cfg.dcacheSize ∈ [0, 512, 1024, 2048, 4096, 8192, 16384, 32768, 65536] := by
      unfold Config.dcacheSize
      split
      · unfold Config.wf at hw
        simp only [Bool.and_eq_true, decide_eq_true_eq] at hw
        tauto
      · simp
    simp only [List.mem_cons, List.not_mem_nil, or_false] at hmem
    omega
  unfold State.dindex lineIndex
  exact Nat.mod_lt _ hpos

/-! ## Eviction -/

/-- Eviction without ECC touches memory, and the old instruction words, only. -/
theorem State.evict_only (s : State) (i : Nat) (h : s.cfg.ecc = false) :
    s.evict i = { s with
      mem := (s.evict i).mem, prefetched := (s.evict i).prefetched, readAhead := (s.evict i).readAhead } := by
  unfold State.evict
  split
  · rw [s.writeBack_noEcc _ h]
    unfold State.lineWrite State.busWriteTo State.keepPrefetched
    split <;> rfl
  · rfl

/-- What memory reads after an eviction without ECC (20_memory.md R125). -/
theorem State.read_evict (s : State) (i : Nat) (h : s.cfg.ecc = false) (hm : s.mem.wf = true)
    (hl : (s.dline i).data.length = 32) (x : Nat) : (s.evict i).mem.read x = s.afterWriteBack (s.dline i) x := by
  unfold State.evict State.afterWriteBack
  by_cases hvd : (s.dline i).dirty = true
  · rw [if_pos hvd, s.writeBack_noEcc _ h]
    rw [s.lineWrite_eq, State.busWriteTo_mem]
    by_cases hr : (s.dline i).line * 32 ≤ x ∧ x < (s.dline i).line * 32 + 32
    · obtain ⟨k, rfl⟩ : ∃ k, x = (s.dline i).line * 32 + k := ⟨x - (s.dline i).line * 32, by omega⟩
      have hk : k < (s.dline i).data.length := by omega
      by_cases hd : s.cfg.dlineRam ((s.dline i).line * 32 + k) = true
      · rw [busStore_same _ _ _ _ _ hm hk hd, if_pos ⟨hvd, hr.1, hr.2, hd⟩, Nat.add_sub_cancel_left,
          List.getD_eq_getElem _ _ hk]
      · rw [busStore_lost _ _ _ _ _ (by simpa using hd), if_neg]
        exact fun hh => hd hh.2.2.2
    · rw [busStore_other _ _ _ _ _ (by omega), if_neg]
      exact fun hh => hr ⟨hh.2.1, hh.2.2.1⟩
  · rw [if_neg hvd, if_neg]
    intro hh
    exact hvd hh.1

/-! ## A line made present -/

/-- The state in which a line is filled at index `i`: after the eviction of a valid line (20_memory.md R125). -/
def State.cleared (s : State) (i : Nat) : State := if (s.dline i).valid then s.evict i else s

/-- The state with the line of `a` present at index `i`, without ECC: as it is on a hit, after eviction and fill on a miss
(20_memory.md R125). -/
theorem dpresent_noEcc (va : Word) (i a : Nat) (s : State) (h : s.cfg.ecc = false) :
    dpresent va i a s = if (s.dline i).valid = true ∧ (s.dline i).line = a / 32 then .ok none s
      else .ok (some ((s.cleared i).dfillBytes a)) ((s.cleared i).dfill i a) := by
  unfold dpresent State.cleared
  simp only [State.eccRead_noEcc s _ h, s.lineTag_noEcc _ h, s.dtagRead_noEcc _ _ h]
  cases hv : (s.dline i).valid
  · simp
  · by_cases hl : (s.dline i).line = a / 32 <;> simp [hl]

/-- A fill without ECC: one line replaced, a draw used where the platform has no memory. -/
theorem State.dfill_noEcc (s : State) (i a : Nat) (h : s.cfg.ecc = false) :
    s.dfill i a = (busReadState s.cfg.dlineRam s (a / 32 * 32) 32).setDline i
      (filledLine s.cfg.dtagUnit (a / 32) (s.dfillBytes a) [] []) := by
  unfold State.dfill
  simp only [s.injectedBits_noEcc _ _ h]
  have hc : ∀ l, ((busReadState s.cfg.dlineRam s (a / 32 * 32) 32).setDline i l).cfg.ecc = false := by
    intro l
    unfold busReadState
    split <;> exact h
  rw [State.injectionDone_noEcc _ _ (hc _), State.injectionDone_noEcc _ _ (hc _)]

/-- What memory reads after the eviction of a valid line without ECC (20_memory.md R125). -/
theorem State.read_cleared (s : State) (i : Nat) (h : s.cfg.ecc = false) (hm : s.mem.wf = true)
    (hl : (s.dline i).data.length = 32) (x : Nat) :
    (s.cleared i).mem.read x = if (s.dline i).valid then s.afterWriteBack (s.dline i) x else s.mem.read x := by
  unfold State.cleared
  split
  · exact s.read_evict i h hm hl x
  · rfl

/-- A byte of a freshly filled line, after the eviction that made room for it, is memory's as it was. -/
theorem State.fill_byte (s : State) (i p o : Nat) (he : s.cfg.ecc = false) (ho : o < 32) (hm : s.mem.wf = true)
    (hL : (s.dline i).data.length = 32) (hne : (s.dline i).valid = true → (s.dline i).line ≠ p / 32) :
    ((s.cleared i).dfillBytes p).getD o 0#8
      = if s.cfg.dlineRam (p / 32 * 32 + o) then s.mem.read (p / 32 * 32 + o) else Config.freeByte s.draws o := by
  have hd : (s.cleared i).draws = s.draws ∧ (s.cleared i).cfg = s.cfg := by
    unfold State.cleared
    split
    · rw [s.evict_only _ he]
      exact ⟨rfl, rfl⟩
    · exact ⟨rfl, rfl⟩
  unfold State.dfillBytes busBytes
  rw [List.getD_eq_getElem _ _ (by simpa using ho)]
  simp only [List.getElem_map, List.getElem_range]
  rw [hd.1, hd.2]
  split
  · rw [s.read_cleared _ he hm hL]
    split
    · next hv =>
      unfold State.afterWriteBack
      rw [if_neg]
      intro ⟨_, h3, h4, _⟩
      exact hne hv (by omega)
    · rfl
  · rfl

/-! ## The page offset -/

theorem and_mod_of_low_ones (va m : Word) (k : Nat) (hk : ∀ i, i < k → m.getLsbD i = true) :
    (va &&& m).toNat % 2 ^ k = va.toNat % 2 ^ k := by
  apply Nat.eq_of_testBit_eq
  intro i
  simp only [Nat.testBit_mod_two_pow]
  by_cases h : i < k
  · have hi := hk i h
    unfold BitVec.getLsbD at hi
    simp [h, hi]
  · simp [h]

theorem flatPhysical_low (c : Config) (va : Word) : flatPhysical c va % 4096 = va.toNat % 4096 := by
  unfold flatPhysical
  split
  · exact and_mod_of_low_ones va _ 12 (by decide)
  · rfl

/-- Every translation keeps the page offset (21_mmu_mpu.md R151). -/
theorem translateData_low {va : Word} {kind : AccessKind} {s s1 : State} {p : Nat} {c : Bool}
    (h : translateData va kind s = .ok (p, c) s1) : p % 4096 = va.toNat % 4096 := by
  unfold translateData at h
  split at h
  · unfold mmuData at h
    split at h
    · injection h with h _
      injection h with h _
      subst h
      exact and_mod_of_low_ones va _ 12 (by decide)
    · split at h
      · cases h
      · unfold tlbLookup at h
        split at h
        · cases h
        · dsimp only at h
          split at h
          · cases h
          · injection h with h _
            injection h with h _
            subst h
            unfold framePhysical
            simp [field, BitVec.extractLsb'_toNat]
        · cases h
  · dsimp only at h
    cases hd : mpuData va (flatPhysical s.cfg va) kind s with
    | ok mt s2 =>
      rw [hd] at h
      simp only [Flow.andThen] at h
      injection h with h _
      injection h with h _
      subst h
      exact flatPhysical_low _ _
    | stop o =>
      rw [hd] at h
      cases h

end Sys2Proof.Machine
end

