-- ==== Sys2Proof/Laws/PerInstr.lean ====
section
/-! SUPPORT. Statements made per instruction: for each family, one statement about an instruction as syntax, and one lemma
per constructor of Instr. -/

/-- The word of an instruction has a defined OP, and a defined OPX where OP is 0x3A: the decoder refuses no word that the
encoder writes (30_encoding.md R206, R211). -/
def Sys2Proof.Laws.OpcodeFields.Statement (i : Sys2Proof.Instr) : Prop :=
  ∃ j, Sys2Proof.decodeWord (Sys2Proof.encode i) = .ok j

namespace Sys2Proof.Laws.OpcodeFields

open Sys2Proof

set_option Elab.async false

theorem ldb (b : RegIdx) (a : RegIdx) (imm16 : BitVec 16) : Statement (.ldb b a imm16) :=
  ⟨_, by simp only [encode, decodeWord, opOf_encI]; rfl⟩

theorem ldbio (b : RegIdx) (a : RegIdx) (imm16 : BitVec 16) : Statement (.ldbio b a imm16) :=
  ⟨_, by simp only [encode, decodeWord, opOf_encI]; rfl⟩

theorem ldbu (b : RegIdx) (a : RegIdx) (imm16 : BitVec 16) : Statement (.ldbu b a imm16) :=
  ⟨_, by simp only [encode, decodeWord, opOf_encI]; rfl⟩

theorem ldbuio (b : RegIdx) (a : RegIdx) (imm16 : BitVec 16) : Statement (.ldbuio b a imm16) :=
  ⟨_, by simp only [encode, decodeWord, opOf_encI]; rfl⟩

theorem ldh (b : RegIdx) (a : RegIdx) (imm16 : BitVec 16) : Statement (.ldh b a imm16) :=
  ⟨_, by simp only [encode, decodeWord, opOf_encI]; rfl⟩

theorem ldhio (b : RegIdx) (a : RegIdx) (imm16 : BitVec 16) : Statement (.ldhio b a imm16) :=
  ⟨_, by simp only [encode, decodeWord, opOf_encI]; rfl⟩

theorem ldhu (b : RegIdx) (a : RegIdx) (imm16 : BitVec 16) : Statement (.ldhu b a imm16) :=
  ⟨_, by simp only [encode, decodeWord, opOf_encI]; rfl⟩

theorem ldhuio (b : RegIdx) (a : RegIdx) (imm16 : BitVec 16) : Statement (.ldhuio b a imm16) :=
  ⟨_, by simp only [encode, decodeWord, opOf_encI]; rfl⟩

theorem ldw (b : RegIdx) (a : RegIdx) (imm16 : BitVec 16) : Statement (.ldw b a imm16) :=
  ⟨_, by simp only [encode, decodeWord, opOf_encI]; rfl⟩

theorem ldwio (b : RegIdx) (a : RegIdx) (imm16 : BitVec 16) : Statement (.ldwio b a imm16) :=
  ⟨_, by simp only [encode, decodeWord, opOf_encI]; rfl⟩

theorem stb (b : RegIdx) (a : RegIdx) (imm16 : BitVec 16) : Statement (.stb b a imm16) :=
  ⟨_, by simp only [encode, decodeWord, opOf_encI]; rfl⟩

theorem stbio (b : RegIdx) (a : RegIdx) (imm16 : BitVec 16) : Statement (.stbio b a imm16) :=
  ⟨_, by simp only [encode, decodeWord, opOf_encI]; rfl⟩

theorem sth (b : RegIdx) (a : RegIdx) (imm16 : BitVec 16) : Statement (.sth b a imm16) :=
  ⟨_, by simp only [encode, decodeWord, opOf_encI]; rfl⟩

theorem sthio (b : RegIdx) (a : RegIdx) (imm16 : BitVec 16) : Statement (.sthio b a imm16) :=
  ⟨_, by simp only [encode, decodeWord, opOf_encI]; rfl⟩

theorem stw (b : RegIdx) (a : RegIdx) (imm16 : BitVec 16) : Statement (.stw b a imm16) :=
  ⟨_, by simp only [encode, decodeWord, opOf_encI]; rfl⟩

theorem stwio (b : RegIdx) (a : RegIdx) (imm16 : BitVec 16) : Statement (.stwio b a imm16) :=
  ⟨_, by simp only [encode, decodeWord, opOf_encI]; rfl⟩

theorem add (c : RegIdx) (a : RegIdx) (b : RegIdx) : Statement (.add c a b) :=
  ⟨_, by simp only [encode, decodeWord, decodeR, opOf_encR, opxOf_encR]; rfl⟩

theorem addi (b : RegIdx) (a : RegIdx) (imm16 : BitVec 16) : Statement (.addi b a imm16) :=
  ⟨_, by simp only [encode, decodeWord, opOf_encI]; rfl⟩

theorem sub (c : RegIdx) (a : RegIdx) (b : RegIdx) : Statement (.sub c a b) :=
  ⟨_, by simp only [encode, decodeWord, decodeR, opOf_encR, opxOf_encR]; rfl⟩

theorem and (c : RegIdx) (a : RegIdx) (b : RegIdx) : Statement (.and c a b) :=
  ⟨_, by simp only [encode, decodeWord, decodeR, opOf_encR, opxOf_encR]; rfl⟩

theorem andi (b : RegIdx) (a : RegIdx) (imm16 : BitVec 16) : Statement (.andi b a imm16) :=
  ⟨_, by simp only [encode, decodeWord, opOf_encI]; rfl⟩

theorem andhi (b : RegIdx) (a : RegIdx) (imm16 : BitVec 16) : Statement (.andhi b a imm16) :=
  ⟨_, by simp only [encode, decodeWord, opOf_encI]; rfl⟩

theorem or (c : RegIdx) (a : RegIdx) (b : RegIdx) : Statement (.or c a b) :=
  ⟨_, by simp only [encode, decodeWord, decodeR, opOf_encR, opxOf_encR]; rfl⟩

theorem ori (b : RegIdx) (a : RegIdx) (imm16 : BitVec 16) : Statement (.ori b a imm16) :=
  ⟨_, by simp only [encode, decodeWord, opOf_encI]; rfl⟩

theorem orhi (b : RegIdx) (a : RegIdx) (imm16 : BitVec 16) : Statement (.orhi b a imm16) :=
  ⟨_, by simp only [encode, decodeWord, opOf_encI]; rfl⟩

theorem xor (c : RegIdx) (a : RegIdx) (b : RegIdx) : Statement (.xor c a b) :=
  ⟨_, by simp only [encode, decodeWord, decodeR, opOf_encR, opxOf_encR]; rfl⟩

theorem xori (b : RegIdx) (a : RegIdx) (imm16 : BitVec 16) : Statement (.xori b a imm16) :=
  ⟨_, by simp only [encode, decodeWord, opOf_encI]; rfl⟩

theorem xorhi (b : RegIdx) (a : RegIdx) (imm16 : BitVec 16) : Statement (.xorhi b a imm16) :=
  ⟨_, by simp only [encode, decodeWord, opOf_encI]; rfl⟩

theorem nor (c : RegIdx) (a : RegIdx) (b : RegIdx) : Statement (.nor c a b) :=
  ⟨_, by simp only [encode, decodeWord, decodeR, opOf_encR, opxOf_encR]; rfl⟩

theorem mul (c : RegIdx) (a : RegIdx) (b : RegIdx) : Statement (.mul c a b) :=
  ⟨_, by simp only [encode, decodeWord, decodeR, opOf_encR, opxOf_encR]; rfl⟩

theorem muli (b : RegIdx) (a : RegIdx) (imm16 : BitVec 16) : Statement (.muli b a imm16) :=
  ⟨_, by simp only [encode, decodeWord, opOf_encI]; rfl⟩

theorem mulxss (c : RegIdx) (a : RegIdx) (b : RegIdx) : Statement (.mulxss c a b) :=
  ⟨_, by simp only [encode, decodeWord, decodeR, opOf_encR, opxOf_encR]; rfl⟩

theorem mulxsu (c : RegIdx) (a : RegIdx) (b : RegIdx) : Statement (.mulxsu c a b) :=
  ⟨_, by simp only [encode, decodeWord, decodeR, opOf_encR, opxOf_encR]; rfl⟩

theorem mulxuu (c : RegIdx) (a : RegIdx) (b : RegIdx) : Statement (.mulxuu c a b) :=
  ⟨_, by simp only [encode, decodeWord, decodeR, opOf_encR, opxOf_encR]; rfl⟩

theorem div (c : RegIdx) (a : RegIdx) (b : RegIdx) : Statement (.div c a b) :=
  ⟨_, by simp only [encode, decodeWord, decodeR, opOf_encR, opxOf_encR]; rfl⟩

theorem divu (c : RegIdx) (a : RegIdx) (b : RegIdx) : Statement (.divu c a b) :=
  ⟨_, by simp only [encode, decodeWord, decodeR, opOf_encR, opxOf_encR]; rfl⟩

theorem cmpeq (c : RegIdx) (a : RegIdx) (b : RegIdx) : Statement (.cmpeq c a b) :=
  ⟨_, by simp only [encode, decodeWord, decodeR, opOf_encR, opxOf_encR]; rfl⟩

theorem cmpne (c : RegIdx) (a : RegIdx) (b : RegIdx) : Statement (.cmpne c a b) :=
  ⟨_, by simp only [encode, decodeWord, decodeR, opOf_encR, opxOf_encR]; rfl⟩

theorem cmpge (c : RegIdx) (a : RegIdx) (b : RegIdx) : Statement (.cmpge c a b) :=
  ⟨_, by simp only [encode, decodeWord, decodeR, opOf_encR, opxOf_encR]; rfl⟩

theorem cmpgeu (c : RegIdx) (a : RegIdx) (b : RegIdx) : Statement (.cmpgeu c a b) :=
  ⟨_, by simp only [encode, decodeWord, decodeR, opOf_encR, opxOf_encR]; rfl⟩

theorem cmplt (c : RegIdx) (a : RegIdx) (b : RegIdx) : Statement (.cmplt c a b) :=
  ⟨_, by simp only [encode, decodeWord, decodeR, opOf_encR, opxOf_encR]; rfl⟩

theorem cmpltu (c : RegIdx) (a : RegIdx) (b : RegIdx) : Statement (.cmpltu c a b) :=
  ⟨_, by simp only [encode, decodeWord, decodeR, opOf_encR, opxOf_encR]; rfl⟩

theorem cmpeqi (b : RegIdx) (a : RegIdx) (imm16 : BitVec 16) : Statement (.cmpeqi b a imm16) :=
  ⟨_, by simp only [encode, decodeWord, opOf_encI]; rfl⟩

theorem cmpnei (b : RegIdx) (a : RegIdx) (imm16 : BitVec 16) : Statement (.cmpnei b a imm16) :=
  ⟨_, by simp only [encode, decodeWord, opOf_encI]; rfl⟩

theorem cmpgei (b : RegIdx) (a : RegIdx) (imm16 : BitVec 16) : Statement (.cmpgei b a imm16) :=
  ⟨_, by simp only [encode, decodeWord, opOf_encI]; rfl⟩

theorem cmpgeui (b : RegIdx) (a : RegIdx) (imm16 : BitVec 16) : Statement (.cmpgeui b a imm16) :=
  ⟨_, by simp only [encode, decodeWord, opOf_encI]; rfl⟩

theorem cmplti (b : RegIdx) (a : RegIdx) (imm16 : BitVec 16) : Statement (.cmplti b a imm16) :=
  ⟨_, by simp only [encode, decodeWord, opOf_encI]; rfl⟩

theorem cmpltui (b : RegIdx) (a : RegIdx) (imm16 : BitVec 16) : Statement (.cmpltui b a imm16) :=
  ⟨_, by simp only [encode, decodeWord, opOf_encI]; rfl⟩

theorem rol (c : RegIdx) (a : RegIdx) (b : RegIdx) : Statement (.rol c a b) :=
  ⟨_, by simp only [encode, decodeWord, decodeR, opOf_encR, opxOf_encR]; rfl⟩

theorem roli (c : RegIdx) (a : RegIdx) (imm5 : BitVec 5) : Statement (.roli c a imm5) :=
  ⟨_, by simp only [encode, decodeWord, decodeR, opOf_encR, opxOf_encR]; rfl⟩

theorem ror (c : RegIdx) (a : RegIdx) (b : RegIdx) : Statement (.ror c a b) :=
  ⟨_, by simp only [encode, decodeWord, decodeR, opOf_encR, opxOf_encR]; rfl⟩

theorem sll (c : RegIdx) (a : RegIdx) (b : RegIdx) : Statement (.sll c a b) :=
  ⟨_, by simp only [encode, decodeWord, decodeR, opOf_encR, opxOf_encR]; rfl⟩

theorem slli (c : RegIdx) (a : RegIdx) (imm5 : BitVec 5) : Statement (.slli c a imm5) :=
  ⟨_, by simp only [encode, decodeWord, decodeR, opOf_encR, opxOf_encR]; rfl⟩

theorem srl (c : RegIdx) (a : RegIdx) (b : RegIdx) : Statement (.srl c a b) :=
  ⟨_, by simp only [encode, decodeWord, decodeR, opOf_encR, opxOf_encR]; rfl⟩

theorem srli (c : RegIdx) (a : RegIdx) (imm5 : BitVec 5) : Statement (.srli c a imm5) :=
  ⟨_, by simp only [encode, decodeWord, decodeR, opOf_encR, opxOf_encR]; rfl⟩

theorem sra (c : RegIdx) (a : RegIdx) (b : RegIdx) : Statement (.sra c a b) :=
  ⟨_, by simp only [encode, decodeWord, decodeR, opOf_encR, opxOf_encR]; rfl⟩

theorem srai (c : RegIdx) (a : RegIdx) (imm5 : BitVec 5) : Statement (.srai c a imm5) :=
  ⟨_, by simp only [encode, decodeWord, decodeR, opOf_encR, opxOf_encR]; rfl⟩

theorem br (imm16 : BitVec 16) : Statement (.br imm16) :=
  ⟨_, by simp only [encode, decodeWord, opOf_encI]; rfl⟩

theorem call (imm26 : BitVec 26) : Statement (.call imm26) :=
  ⟨_, by simp only [encode, decodeWord, opOf_encJ]; rfl⟩

theorem callr (a : RegIdx) : Statement (.callr a) :=
  ⟨_, by simp only [encode, decodeWord, decodeR, opOf_encR, opxOf_encR]; rfl⟩

theorem jmp (a : RegIdx) : Statement (.jmp a) :=
  ⟨_, by simp only [encode, decodeWord, decodeR, opOf_encR, opxOf_encR]; rfl⟩

theorem jmpi (imm26 : BitVec 26) : Statement (.jmpi imm26) :=
  ⟨_, by simp only [encode, decodeWord, opOf_encJ]; rfl⟩

theorem ret : Statement (.ret) :=
  ⟨_, by simp only [encode, decodeWord, decodeR, opOf_encR, opxOf_encR]; rfl⟩

theorem nextpc (c : RegIdx) : Statement (.nextpc c) :=
  ⟨_, by simp only [encode, decodeWord, decodeR, opOf_encR, opxOf_encR]; rfl⟩

theorem beq (a : RegIdx) (b : RegIdx) (imm16 : BitVec 16) : Statement (.beq a b imm16) :=
  ⟨_, by simp only [encode, decodeWord, opOf_encI]; rfl⟩

theorem bne (a : RegIdx) (b : RegIdx) (imm16 : BitVec 16) : Statement (.bne a b imm16) :=
  ⟨_, by simp only [encode, decodeWord, opOf_encI]; rfl⟩

theorem bge (a : RegIdx) (b : RegIdx) (imm16 : BitVec 16) : Statement (.bge a b imm16) :=
  ⟨_, by simp only [encode, decodeWord, opOf_encI]; rfl⟩

theorem bgeu (a : RegIdx) (b : RegIdx) (imm16 : BitVec 16) : Statement (.bgeu a b imm16) :=
  ⟨_, by simp only [encode, decodeWord, opOf_encI]; rfl⟩

theorem blt (a : RegIdx) (b : RegIdx) (imm16 : BitVec 16) : Statement (.blt a b imm16) :=
  ⟨_, by simp only [encode, decodeWord, opOf_encI]; rfl⟩

theorem bltu (a : RegIdx) (b : RegIdx) (imm16 : BitVec 16) : Statement (.bltu a b imm16) :=
  ⟨_, by simp only [encode, decodeWord, opOf_encI]; rfl⟩

theorem trap (imm5 : BitVec 5) : Statement (.trap imm5) :=
  ⟨_, by simp only [encode, decodeWord, decodeR, opOf_encR, opxOf_encR]; rfl⟩

theorem eret : Statement (.eret) :=
  ⟨_, by simp only [encode, decodeWord, decodeR, opOf_encR, opxOf_encR]; rfl⟩

theorem bret : Statement (.bret) :=
  ⟨_, by simp only [encode, decodeWord, decodeR, opOf_encR, opxOf_encR]; rfl⟩

theorem brk (imm5 : BitVec 5) : Statement (.brk imm5) :=
  ⟨_, by simp only [encode, decodeWord, decodeR, opOf_encR, opxOf_encR]; rfl⟩

theorem rdctl (c : RegIdx) (n : BitVec 5) : Statement (.rdctl c n) :=
  ⟨_, by simp only [encode, decodeWord, decodeR, opOf_encR, opxOf_encR]; rfl⟩

theorem wrctl (n : BitVec 5) (a : RegIdx) : Statement (.wrctl n a) :=
  ⟨_, by simp only [encode, decodeWord, decodeR, opOf_encR, opxOf_encR]; rfl⟩

theorem flushd (a : RegIdx) (imm16 : BitVec 16) : Statement (.flushd a imm16) :=
  ⟨_, by simp only [encode, decodeWord, opOf_encI]; rfl⟩

theorem flushda (a : RegIdx) (imm16 : BitVec 16) : Statement (.flushda a imm16) :=
  ⟨_, by simp only [encode, decodeWord, opOf_encI]; rfl⟩

theorem initd (a : RegIdx) (imm16 : BitVec 16) : Statement (.initd a imm16) :=
  ⟨_, by simp only [encode, decodeWord, opOf_encI]; rfl⟩

theorem initda (a : RegIdx) (imm16 : BitVec 16) : Statement (.initda a imm16) :=
  ⟨_, by simp only [encode, decodeWord, opOf_encI]; rfl⟩

theorem flushi (a : RegIdx) : Statement (.flushi a) :=
  ⟨_, by simp only [encode, decodeWord, decodeR, opOf_encR, opxOf_encR]; rfl⟩

theorem initi (a : RegIdx) : Statement (.initi a) :=
  ⟨_, by simp only [encode, decodeWord, decodeR, opOf_encR, opxOf_encR]; rfl⟩

theorem flushp : Statement (.flushp) :=
  ⟨_, by simp only [encode, decodeWord, decodeR, opOf_encR, opxOf_encR]; rfl⟩

theorem sync : Statement (.sync) :=
  ⟨_, by simp only [encode, decodeWord, decodeR, opOf_encR, opxOf_encR]; rfl⟩

theorem rdprs (b : RegIdx) (a : RegIdx) (imm16 : BitVec 16) : Statement (.rdprs b a imm16) :=
  ⟨_, by simp only [encode, decodeWord, opOf_encI]; rfl⟩

theorem wrprs (c : RegIdx) (a : RegIdx) : Statement (.wrprs c a) :=
  ⟨_, by simp only [encode, decodeWord, decodeR, opOf_encR, opxOf_encR]; rfl⟩

theorem custom (n : BitVec 8) (readra : Bool) (readrb : Bool) (writerc : Bool) (c : RegIdx) (a : RegIdx) (b : RegIdx) : Statement (.custom n readra readrb writerc c a b) :=
  ⟨_, by simp only [encode, decodeWord, opOf_encCustom]; rfl⟩

end Sys2Proof.Laws.OpcodeFields
end

