-- ==== Sys2Proof/Laws/Prefetch.lean ====
section
/-! SUPPORT. Which old instruction words may still run (20_memory.md R101, R133, R145): one lemma each for a store, a write-back, the
invalidation of an instruction cache line and a fetch. -/

namespace Sys2Proof

namespace Machine

/-- The word that the instruction side reads depends on the configuration, on ECC, on the word's bytes and on its mark. -/
theorem instrWord_congr {s t : State} (hc : t.cfg = s.cfg) (ho : t.config = s.config) (k : Nat)
    (he : t.tcmMark (4 * k) = s.tcmMark (4 * k)) (hm : t.wordBytes (4 * k) = s.wordBytes (4 * k)) :
    t.instrWord k = s.instrWord k := by
  simp only [State.instrWord, State.eccOn, hc, ho, he, hm]
  rfl

/-- The words kept with an index, as pairs of the table. -/
theorem mem_wordsAt (m : List (Nat × List (Nat × Word))) (i k : Nat) (w : Word) :
    w ∈ wordsAt m i k ↔ (i, w) ∈ sparseGet [] m k := by
  simp only [wordsAt, List.mem_filterMap]
  constructor
  · rintro ⟨⟨j, v⟩, he, h⟩
    by_cases hj : j = i
    · rw [if_pos hj] at h
      obtain rfl := Option.some.inj h
      exact hj ▸ he
    · rw [if_neg hj] at h
      exact absurd h (by simp)
  · exact fun h => ⟨(i, w), h, by simp⟩

/-- The words that the pipeline may hold, as pairs of the table. -/
theorem mem_prefetchedAt (s : State) (i k : Nat) (w : Word) : w ∈ s.prefetchedAt i k ↔ (i, w) ∈ sparseGet [] s.prefetched k :=
  mem_wordsAt _ i k w

/-- The words that the instruction cache may have read ahead, as pairs of the table. -/
theorem mem_aheadAt (s : State) (i k : Nat) (w : Word) : w ∈ s.aheadAt i k ↔ (i, w) ∈ sparseGet [] s.readAhead k :=
  mem_wordsAt _ i k w

/-- A change of memory whose words are all in `ks` keeps the old words that may still run. -/
theorem keepPrefetched_keeps (s t : State) (ks : List Nat) (hp : t.prefetched = s.prefetched) (hr : t.readAhead = s.readAhead)
    (hk : ∀ k, k ∉ ks → t.instrWord k = s.instrWord k) : KeepsPrefetched s (s.keepPrefetched t ks) := by
  have hw : ∀ k, (s.keepPrefetched t ks).instrWord k = t.instrWord k := fun k =>
    instrWord_congr (by simp) (by simp) k (by simp only [State.tcmMark, State.keepPrefetched_tcmEcc])
      (by simp only [State.wordBytes, State.keepPrefetched_mem])
  have hch : ∀ k, k ∈ changedWords s t ks ↔ t.instrWord k ≠ s.instrWord k := fun k => by
    simp only [changedWords, List.mem_filter, bne_iff_ne, ne_eq]
    constructor
    · exact fun h e => h.2 e.symm
    · exact fun h => ⟨by_contra fun hn => h (hk k hn), fun e => h e.symm⟩
  refine ⟨fun h => ?_, fun h k i w => ?_⟩
  · unfold State.keepPrefetched
    rw [h, if_neg (by simp)]
    exact ⟨hp, hr⟩
  · intro changed
    have hpf : (s.keepPrefetched t ks).prefetched = addWords
        (fun k => if s.cfg.ihomes k = [] then [(0, s.instrWord k)] else []) s.prefetched (changedWords s t ks) := by
      unfold State.keepPrefetched
      rw [h, if_pos rfl]
    have hra : (s.keepPrefetched t ks).readAhead = addWords
        (fun k => (s.cfg.ihomes k).map (fun i => (i, s.instrWord k))) s.readAhead (changedWords s t ks) := by
      unfold State.keepPrefetched
      rw [h, if_pos rfl]
    constructor
    · rw [mem_prefetchedAt, hpf, mem_addWords, hch, mem_prefetchedAt]
      show _ ↔ _ ∨ (((s.keepPrefetched t ks).instrWord k ≠ s.instrWord k ∧ w = s.instrWord k) ∧ _)
      rw [hw]
      by_cases he : s.cfg.ihomes k = []
      · simp only [he, if_true, List.mem_singleton, Prod.mk.injEq, true_and]
        tauto
      · simp only [he, if_false, List.not_mem_nil, and_false, false_and]
    · rw [mem_aheadAt, hra, mem_addWords, hch, mem_aheadAt]
      show _ ↔ _ ∨ (((s.keepPrefetched t ks).instrWord k ≠ s.instrWord k ∧ w = s.instrWord k) ∧ _)
      rw [hw]
      simp only [List.mem_map, Prod.mk.injEq]
      constructor
      · rintro (h | ⟨h1, j, hj, rfl, rfl⟩)
        · exact .inl h
        · exact .inr ⟨⟨h1, rfl⟩, hj⟩
      · rintro (h | ⟨⟨h1, rfl⟩, hj⟩)
        · exact .inl h
        · exact .inr ⟨h1, i, hj, rfl, rfl⟩

/-- A word that the written bytes do not touch keeps its bytes. -/
theorem wordBytes_busStore (ram : Nat → Bool) (s : State) (marks : List (Nat × EccMark)) (a : Nat) (bs : List Byte) (k : Nat)
    (hk : k ∉ wordsOf a bs.length) :
    State.wordBytes { s with mem := busStore ram s.mem a bs, tcmEcc := marks } (4 * k) = s.wordBytes (4 * k) := by
  refine List.map_congr_left fun j hj => ?_
  have hj4 : j < 4 := List.mem_range.1 hj
  by_cases h0 : bs.length = 0
  · rw [List.length_eq_zero_iff] at h0
    subst h0
    rfl
  · refine busStore_other _ _ _ _ _ ?_
    unfold wordsOf at hk
    rw [if_neg h0] at hk
    simp only [List.mem_range'_1, not_and, not_lt] at hk
    by_contra hc
    have h1 : a ≤ 4 * k / 4 * 4 + j ∧ 4 * k / 4 * 4 + j < a + bs.length := by omega
    have h2 := hk (by omega)
    omega

/-- The marks of the other words after a store of the data master. -/
theorem marksWritten_other (s : State) (a n k : Nat) (hk : k ≠ a / 4) :
    sparseGet EccMark.none (s.marksWritten a n) k = sparseGet EccMark.none s.tcmEcc k := by
  unfold State.marksWritten
  split
  · exact sparseGet_set_other _ _ _ _ _ hk
  · rfl

/-- A store of the data master keeps the old words that may still run. -/
theorem busWrite_keeps (s : State) (a : Nat) (bs : List Byte) (hb : bs ≠ []) : KeepsPrefetched s (s.busWrite a bs) := by
  refine keepPrefetched_keeps _ _ _ rfl rfl fun k hk => instrWord_congr ?_ ?_ k ?_ ?_
  · rfl
  · rfl
  · refine marksWritten_other s a bs.length (4 * k / 4) fun h => hk ?_
    have h0 : bs.length ≠ 0 := by simpa using hb
    unfold wordsOf
    rw [if_neg h0, List.mem_range'_1]
    omega
  · exact wordBytes_busStore _ s _ a bs k hk

/-- A write-back keeps the old words that may still run. -/
theorem lineWrite_keeps (s : State) (a : Nat) (bs : List Byte) : KeepsPrefetched s (s.lineWrite a bs) :=
  keepPrefetched_keeps _ _ _ rfl rfl fun k hk => instrWord_congr (by rfl) (by rfl) k (by rfl) (wordBytes_busStore _ s _ a bs k hk)

/-- What a store of the data master leaves of the marks of tightly-coupled memory. -/
theorem busWrite_remarked (s : State) (a : Nat) (bs : List Byte) : Remarked s (s.busWrite a bs) a bs.length where
  noEcc h := by simp [State.marksWritten, h]
  others k hk := by rw [s.busWrite_eq, State.busWriteTo_tcmEcc]; exact marksWritten_other s a _ k hk
  whole h hd h4 hw := by
    rw [s.busWrite_eq, State.busWriteTo_tcmEcc]
    unfold State.marksWritten State.rewrittenMark
    rw [h, hd, if_pos h4, if_pos (by rfl), sparseGet_set_same _ _ _ _ hw]

/-- The invalidation of an instruction cache line leaves its old words to the pipeline alone. -/
theorem icacheInvalidateLine_flushes (s : State) (addr : Word) (hc : s.cfg.icacheSize ≠ 0)
    (hw : sparseWf [] s.readAhead = true) :
    FlushesAhead s (s.icacheInvalidateLine addr) (addr.toNat / 32 % (s.cfg.icacheSize / 32)) := by
  intro k
  unfold State.icacheInvalidateLine
  rw [if_neg hc]
  simp only [show lineIndex s.cfg.icacheSize addr.toNat = addr.toNat / 32 % (s.cfg.icacheSize / 32) from rfl]
  generalize addr.toNat / 32 % (s.cfg.icacheSize / 32) = i
  generalize ({ s.iline i with valid := false } : CacheLine) = l
  have hkeys : ∀ w, w ∈ s.aheadAt i k → k ∈ s.readAhead.map Prod.fst := fun w h => by
    by_contra hn
    rw [mem_aheadAt, sparseGet_not_mem _ _ hn] at h
    exact absurd h (by simp)
  have hra : sparseGet [] ((s.setIline i l).aheadFlushed i).readAhead k
      = (sparseGet [] s.readAhead k).filter (fun x => x.1 != i) := by
    show sparseGet [] (s.readAhead.foldl _ s.readAhead) k = _
    rw [foldl_filter_get _ _ _ hw hw]
    split
    · rfl
    · next hn =>
      rw [sparseGet_not_mem _ _ hn]
      rfl
  have hpf : ∀ (j : Nat) (w : Word), w ∈ ((s.setIline i l).aheadFlushed i).prefetchedAt j k ↔
      (w ∈ s.prefetchedAt j k ∨ (k ∈ s.staleIn i ∧ j = i ∧ w = (s.iline i).word k))
        ∨ (k ∈ s.readAhead.map Prod.fst ∧ w ∈ s.aheadAt i k ∧ i = j) := fun j w => by
    rw [mem_prefetchedAt]
    show (j, w) ∈ sparseGet [] (addWords (fun k => (s.aheadAt i k).map (fun w => (i, w)))
      (addWords (fun k => [(i, (s.iline i).word k)]) s.prefetched (s.staleIn i)) (s.readAhead.map Prod.fst)) k ↔ _
    rw [mem_addWords, mem_addWords, List.mem_singleton, ← mem_prefetchedAt]
    simp only [Prod.mk.injEq, List.mem_map, exists_eq_right_right]
  refine ⟨fun w => ?_, ?_, fun j hj => ⟨?_, fun w => ?_⟩⟩
  · rw [hpf]
    simp only [true_and, and_true]
    have hs : k ∈ s.staleIn i ∧ w = (s.iline i).word k ↔ (s.iline i).valid = true ∧ s.irefetch (s.iline i) = false ∧
        k / 8 = (s.iline i).line ∧ s.cfg.tightlyCoupled (4 * k) = false ∧ w = (s.iline i).word k ∧ w ≠ s.instrWord k := by
      unfold State.staleIn
      by_cases hv : ((s.iline i).valid && !s.irefetch (s.iline i)) = true
      · rw [if_pos hv]
        simp only [Bool.and_eq_true, Bool.not_eq_true'] at hv
        unfold wordsOf
        simp only [Nat.reduceEqDiff, if_false, List.mem_filter, List.mem_range'_1, Bool.and_eq_true, Bool.not_eq_true',
          bne_iff_ne, hv, true_and]
        constructor
        · rintro ⟨⟨h1, h2, h3⟩, rfl⟩
          exact ⟨by omega, h2, rfl, h3⟩
        · rintro ⟨h1, h2, rfl, h3⟩
          exact ⟨⟨by omega, h2, h3⟩, rfl⟩
      · rw [if_neg hv]
        simp only [Bool.and_eq_true, Bool.not_eq_true', not_and] at hv
        simp only [List.not_mem_nil, false_and, false_iff]
        exact fun h => hv h.1 h.2.1
    rw [hs]
    have hh : k ∈ s.readAhead.map Prod.fst ∧ w ∈ s.aheadAt i k ↔ w ∈ s.aheadAt i k := ⟨fun h => h.2, fun h => ⟨hkeys w h, h⟩⟩
    rw [hh]
    tauto
  · rw [List.eq_nil_iff_forall_not_mem]
    intro w h
    rw [mem_aheadAt, hra] at h
    simp at h
  · unfold State.aheadAt wordsAt
    rw [hra, List.filterMap_filter]
    refine List.filterMap_congr fun e _ => ?_
    by_cases he : e.1 = i
    · simp [he, Ne.symm hj]
    · simp [he]
  · rw [hpf]
    simp only [hj, Ne.symm hj, false_and, and_false, or_false]

/-- The words that a fetch may deliver besides the one that memory and the caches give. -/
theorem mem_otherWords (s : State) (va : Word) (p : Nat) (w : Word) : w ∈ s.otherWords va p ↔ s.MayRun va p w := by
  unfold State.otherWords State.MayRun State.cachedOtherwise fetchIndex lineIndex
  simp only [List.mem_append]
  refine or_congr Iff.rfl ?_
  split
  · next h => simp [h]
  · next h =>
    simp only [Bool.not_eq_true] at h
    simp only [h, true_and, List.mem_append, List.mem_filter, List.mem_map, Bool.and_eq_true, beq_iff_eq, bne_iff_ne]
    generalize s.aheadAt (va.toNat / 32 % (s.cfg.icacheSize / 32)) (p / 4) = ahead
    rw [← or_assoc]
    refine or_congr ?_ ⟨?_, ?_⟩
    · split
      · next h => simp [h]
      · next h => simp [h]
    · rintro ⟨⟨l, ⟨h1, ⟨h2, h3⟩, h4⟩, rfl⟩, h5⟩
      exact ⟨h5, l, h1, h2, h3, h4, rfl⟩
    · rintro ⟨h5, l, h1, h2, h3, h4, rfl⟩
      exact ⟨⟨l, ⟨h1, ⟨h2, h3⟩, h4⟩, rfl⟩, h5⟩

end Machine

end Sys2Proof
end

