-- ==== Sys2Proof/Laws/Results.lean ====
section
/-! SUPPORT. What an instruction that writes one register leaves, in the terms of Safety.lean: one lemma for the register
write, one for each operand form. -/

namespace Sys2Proof.Machine

open Sys2Proof

/-! ## The register write -/

/-- The three ways in which an injection may treat a written word: it leaves it, it puts one of its bits in error, or two
different ones (60_exceptions.md R495). -/
theorem State.injectedBits_cases (s : State) (lo : Nat) :
    (s.injectedCount lo = 0 ∧ s.injectedBits lo 32 = [])
    ∨ (s.injectedCount lo = 1 ∧ ∃ k, k < 32 ∧ s.injectedBits lo 32 = [k])
    ∨ (2 ≤ s.injectedCount lo ∧ ∃ i j, i < 32 ∧ j < 32 ∧ i ≠ j ∧ s.injectedBits lo 32 = [i, j]) := by
  unfold State.injectedBits
  dsimp only
  match hc : s.injectedCount lo with
  | 0 => exact .inl ⟨rfl, rfl⟩
  | 1 => exact .inr (.inl ⟨rfl, _, Nat.mod_lt _ (by omega), rfl⟩)
  | n + 2 => exact .inr (.inr ⟨by omega, _, _, Nat.mod_lt _ (by omega), Nat.mod_lt _ (by omega), by omega, rfl⟩)

/-- What a register's RAM holds after a write, with the mark the write leaves (60_exceptions.md R495). -/
theorem State.rfWord_holds (s : State) (v : Word) (m : EccMark)
    (hm : s.cfg.ecc = true → markOf (s.injectedBits injRf 32) ≠ .none ∨ sparseWf EccMark.none s.rfEcc = true →
      m = markOf (s.injectedBits injRf 32)) : HoldsWritten s v (s.rfWord v) m := by
  unfold HoldsWritten
  dsimp only
  cases he : s.cfg.ecc
  · rw [if_pos (.inl rfl)]
    exact ⟨s.rfWord_noEcc v he, fun h => nomatch h⟩
  · have hm := hm he
    have hcount : s.injectedCount injRf = if field s.eccinj 0 2 = 3#2 then
        (Config.freeWordAt s.draws (3 * injRf)).toNat % 3 else (field s.eccinj 0 2).toNat := by
      unfold State.injectedCount
      rw [he, if_pos rfl]
      rfl
    have hone : ∀ k, k < 32 → s.injectedBits injRf 32 = [k] →
        ∃ k, k < 32 ∧ s.rfWord v = v ^^^ BitVec.twoPow 32 k ∧ m = .single k := by
      intro k hk hb
      refine ⟨k, hk, ?_, ?_⟩
      · simp [State.rfWord, hb, flipWord, hk]
      · rw [hm (.inl (by rw [hb]; simp [markOf])), hb]
        rfl
    have htwo : ∀ i j, i < 32 → j < 32 → i ≠ j → s.injectedBits injRf 32 = [i, j] →
        ∃ i j, i < 32 ∧ j < 32 ∧ i ≠ j ∧ s.rfWord v = v ^^^ BitVec.twoPow 32 i ^^^ BitVec.twoPow 32 j ∧ m = .double := by
      intro i j hi hj hij hb
      refine ⟨i, j, hi, hj, hij, ?_, ?_⟩
      · simp [State.rfWord, hb, flipWord, hi, hj]
      · rw [hm (.inl (by rw [hb]; simp [markOf])), hb]
        rfl
    have hnone : s.injectedBits injRf 32 = [] →
        s.rfWord v = v ∧ (True → sparseWf EccMark.none s.rfEcc = true → m = .none) := by
      intro hb
      refine ⟨by simp [State.rfWord, hb], fun _ hw => ?_⟩
      rw [hm (.inr hw), hb]
      rfl
    have hlt := (field s.eccinj 0 2).isLt
    have h3 : field s.eccinj 0 2 = 3#2 ↔ (field s.eccinj 0 2).toNat = 3 := BitVec.toNat_inj.symm
    have h2 : field s.eccinj 0 2 = 2#2 ↔ (field s.eccinj 0 2).toNat = 2 := BitVec.toNat_inj.symm
    have h1 : field s.eccinj 0 2 = 1#2 ↔ (field s.eccinj 0 2).toNat = 1 := BitVec.toNat_inj.symm
    have h0 : field s.eccinj 0 2 = 0#2 ↔ (field s.eccinj 0 2).toNat = 0 := BitVec.toNat_inj.symm
    simp only [h3] at hcount
    simp only [h0, h1, h2, Bool.true_eq_false, false_or]
    rcases s.injectedBits_cases injRf with ⟨hc, hb⟩ | ⟨hc, k, hk, hb⟩ | ⟨hc, i, j, hi, hj, hij, hb⟩ <;>
      rw [hcount] at hc
    · have := hnone hb
      split
      · exact this
      · split
        · split at hc <;> omega
        · split
          · split at hc <;> omega
          · exact .inl this
    · have := hone k hk hb
      split
      · split at hc <;> omega
      · split
        · exact this
        · split
          · split at hc <;> omega
          · exact .inr (.inl this)
    · have := htwo i j hi hj hij hb
      split
      · split at hc <;> omega
      · split
        · split at hc <;> omega
        · split
          · exact this
          · exact .inr (.inr this)

/-- A register write leaves its own register with what the RAM makes of the value, and every other as it was. -/
theorem State.setGpr_oneGpr (s : State) (set : Nat) (r : RegIdx) (v : Word) (hs : set ≤ s.shadow.length)
    (hz : ¬ (set = 0 ∧ r = 0#5)) : OneGpr s (s.setGpr set r v) set r v := by
  refine ⟨?_, fun set' j hc => s.getGpr_setGpr_other set r v set' j ?_⟩
  · rw [s.getGpr_setGpr_same set r v hs hz]
    refine s.rfWord_holds v _ fun he hm => ?_
    have hst : ∀ w, (s.storeGpr set r w).cfg = s.cfg ∧ (s.storeGpr set r w).rfEcc = s.rfEcc
        ∧ (s.storeGpr set r w).eccinj = s.eccinj ∧ (s.storeGpr set r w).draws = s.draws := by
      intro w; unfold State.storeGpr; split <;> exact ⟨rfl, rfl, rfl, rfl⟩
    have hb : ∀ w, (s.storeGpr set r w).injectedBits injRf 32 = s.injectedBits injRf 32 := by
      intro w
      obtain ⟨h1, -, h2, h3⟩ := hst w
      simp only [State.injectedBits, State.injectedCount, h1, h2, h3]
    unfold State.gprMark State.setGpr State.rfWritten
    rw [if_neg hz, (hst _).1, he, if_pos rfl]
    show sparseGet EccMark.none (sparseSet EccMark.none (s.storeGpr set r _).rfEcc (rfKey set r) _) (rfKey set r) = _
    rw [hb, (hst _).2.1]
    rcases hm with hm | hm
    · exact sparseGet_set_value _ _ _ _ hm
    · exact sparseGet_set_same _ _ _ _ hm
  · by_cases h1 : set' = set
    · exact .inr fun h2 => hc ⟨h1, h2⟩
    · exact .inl h1

/-- A write of an implemented set's register, register 0 of the normal set apart, and a new `pc`. -/
theorem State.setGpr_written (s : State) (set : Nat) (r : RegIdx) (v pc' : Word) (hs : set ≤ s.shadow.length)
    (hz : ¬ (set = 0 ∧ r = 0#5)) : Written s { s.setGpr set r v with pc := pc' } set r v pc' := by
  have hst : ∀ w, (s.storeGpr set r w).cfg = s.cfg ∧ (s.storeGpr set r w).rfEcc = s.rfEcc
      ∧ (s.storeGpr set r w).eccinj = s.eccinj ∧ (s.storeGpr set r w).draws = s.draws := by
    intro w; unfold State.storeGpr; split <;> exact ⟨rfl, rfl, rfl, rfl⟩
  have hns : s.cfg.ecc = false → s.setGpr set r v = s.storeGpr set r (s.rfWord v) := by
    intro he
    unfold State.setGpr State.rfWritten
    rw [if_neg hz, (hst _).1, he]
    rfl
  refine ⟨rfl, ?_, ?_, ?_, ?_, ?_⟩
  · obtain ⟨h1, h2⟩ := s.setGpr_oneGpr set r v hs hz
    exact ⟨h1, h2⟩
  · have h := s.setGpr_only set r v
    generalize s.setGpr set r v = u at h ⊢
    rw [h]
  · intro h
    rw [hns h]
    exact ⟨(hst _).2.1, (hst _).2.2.1, (hst _).2.2.2⟩
  · intro he
    have h := s.setGpr_eccinj set r v hz
    rw [he, if_pos rfl] at h
    exact h
  · intro k hk
    show sparseGet EccMark.none (s.setGpr set r v).rfEcc k = _
    by_cases he : s.cfg.ecc = true
    · unfold State.setGpr State.rfWritten
      rw [if_neg hz, (hst _).1, he, if_pos rfl]
      show sparseGet EccMark.none (sparseSet EccMark.none (s.storeGpr set r _).rfEcc _ _) k = _
      rw [(hst _).2.1, show sparseGet EccMark.none (sparseSet EccMark.none s.rfEcc (rfKey set r) _) k = _ from
        sparseGet_set_other _ _ _ _ _ hk]
    · rw [hns (by simpa using he), (hst _).2.1]

/-- An instruction's register write and a new `pc`. -/
theorem State.setReg_result (s : State) (r : RegIdx) (v pc' : Word) (h : s.Ready) :
    RegResult s { s.setReg r v with pc := pc' } r v pc' := by
  unfold RegResult State.setReg
  split
  · rfl
  · next hr => exact s.setGpr_written s.crs r v pc' (h.1 ▸ h.2) (fun hz => hr hz.2)

/-- The end of an instruction that writes one register and falls through. -/
theorem State.finish_result (s : State) (r : RegIdx) (v : Word) (h : s.Ready) :
    ∃ t, s.finish r v = .next t ∧ RegResult s t r v (s.pc + 4#32) := by
  have hp : (s.setReg r v).nextPc = s.pc + 4#32 := by simp [State.nextPc]
  exact ⟨_, rfl, hp ▸ s.setReg_result r v _ h⟩

/-- A load's register write and a new `pc`. -/
theorem State.setLoaded_result (s : State) (r : RegIdx) (v pc' : Word) (h : s.Ready) :
    LoadResult s { s.setLoaded r v with pc := pc' } r v pc' := by
  by_cases hr : r = 0#5
  · subst hr
    unfold LoadResult
    split
    · next hc =>
      have hs : s.setLoaded 0#5 v = s := by
        unfold State.setLoaded State.setGpr
        rcases hc.2 with h0 | h0 <;> simp [h0]
      rw [hs]
    · next hc =>
      have hw : s.crs ≠ 0 ∧ s.cfg.loadsWriteShadowR0 = true := by simpa using hc
      unfold State.setLoaded
      rw [if_pos hw.2]
      exact s.setGpr_written s.crs 0#5 v pc' (h.1 ▸ h.2) fun hz => hw.1 hz.1
  · have hw := s.setReg_result r v pc' h
    unfold RegResult at hw
    unfold LoadResult
    rw [if_neg hr] at hw
    rw [if_neg fun hz => hr hz.1, s.setLoaded_of_ne v hr]
    exact hw

/-- The end of a load. -/
theorem State.finishLoad_result (s : State) (r : RegIdx) (v : Word) (h : s.Ready) :
    ∃ t, s.finishLoad r v = .next t ∧ LoadResult s t r v (s.pc + 4#32) := by
  have hp : (s.setLoaded r v).nextPc = s.pc + 4#32 := by simp [State.nextPc]
  exact ⟨_, rfl, hp ▸ s.setLoaded_result r v _ h⟩

/-! ## The operand forms -/

theorem opRRR_result (f : Word → Word → Word) (c a b : RegIdx) (s : State) (h : s.Ready) :
    ∃ t, opRRR f c a b s = .next t ∧ RegResult s t c (f (s.reg a) (s.reg b)) (s.pc + 4#32) := s.finish_result _ _ h

theorem opRRSext_result (f : Word → Word → Word) (b a : RegIdx) (imm16 : BitVec 16) (s : State) (h : s.Ready) :
    ∃ t, opRRSext f b a imm16 s = .next t ∧ RegResult s t b (f (s.reg a) (sext imm16)) (s.pc + 4#32) :=
  s.finish_result _ _ h

theorem opRRZext_result (f : Word → Word → Word) (b a : RegIdx) (imm16 : BitVec 16) (s : State) (h : s.Ready) :
    ∃ t, opRRZext f b a imm16 s = .next t ∧ RegResult s t b (f (s.reg a) (zext imm16)) (s.pc + 4#32) :=
  s.finish_result _ _ h

theorem opRRHigh_result (f : Word → Word → Word) (b a : RegIdx) (imm16 : BitVec 16) (s : State) (h : s.Ready) :
    ∃ t, opRRHigh f b a imm16 s = .next t ∧ RegResult s t b (f (s.reg a) (hiHalf imm16)) (s.pc + 4#32) :=
  s.finish_result _ _ h

theorem opShiftReg_result (f : Word → Nat → Word) (c a b : RegIdx) (s : State) (h : s.Ready) :
    ∃ t, opShiftReg f c a b s = .next t ∧
      RegResult s t c (f (s.reg a) (field (s.reg b) 0 5).toNat) (s.pc + 4#32) := s.finish_result _ _ h

theorem opShiftImm_result (f : Word → Nat → Word) (c a : RegIdx) (imm5 : BitVec 5) (s : State) (h : s.Ready) :
    ∃ t, opShiftImm f c a imm5 s = .next t ∧ RegResult s t c (f (s.reg a) imm5.toNat) (s.pc + 4#32) :=
  s.finish_result _ _ h

end Sys2Proof.Machine
end

