-- ==== Sys2Proof/Laws/Words.lean ====
section
/-! SUPPORT. The fields of an encoded word read back, and the words drawn field by field are those of the encoder
(30_encoding.md R201 to R204). -/

namespace Sys2Proof

theorem aOf_encI (a b : RegIdx) (imm : BitVec 16) (op : BitVec 6) : aOf (encI a b imm op) = a := by
  change field _ 27 5 = _
  simp (disch := omega) only [encI, field_or, field_place_same, field_place_below, field_place_above, BitVec.zero_or,
    BitVec.or_zero]

theorem bOf_encI (a b : RegIdx) (imm : BitVec 16) (op : BitVec 6) : bOf (encI a b imm op) = b := by
  change field _ 22 5 = _
  simp (disch := omega) only [encI, field_or, field_place_same, field_place_below, field_place_above, BitVec.zero_or,
    BitVec.or_zero]

theorem imm16Of_encI (a b : RegIdx) (imm : BitVec 16) (op : BitVec 6) : imm16Of (encI a b imm op) = imm := by
  change field _ 6 16 = _
  simp (disch := omega) only [encI, field_or, field_place_same, field_place_below, field_place_above, BitVec.zero_or,
    BitVec.or_zero]

theorem imm26Of_encJ (imm : BitVec 26) (op : BitVec 6) : imm26Of (encJ imm op) = imm := by
  change field _ 6 26 = _
  simp (disch := omega) only [encJ, field_or, field_place_same, field_place_below, field_place_above, BitVec.zero_or,
    BitVec.or_zero]

theorem aOf_encCustom (n : BitVec 8) (ra rb wc : Bool) (c a b : RegIdx) : aOf (encCustom n ra rb wc c a b) = a := by
  change field _ 27 5 = _
  simp (disch := omega) only [encCustom, field_or, field_place_same, field_place_below, field_place_above, BitVec.zero_or,
    BitVec.or_zero]

theorem bOf_encCustom (n : BitVec 8) (ra rb wc : Bool) (c a b : RegIdx) : bOf (encCustom n ra rb wc c a b) = b := by
  change field _ 22 5 = _
  simp (disch := omega) only [encCustom, field_or, field_place_same, field_place_below, field_place_above, BitVec.zero_or,
    BitVec.or_zero]

theorem cOf_encCustom (n : BitVec 8) (ra rb wc : Bool) (c a b : RegIdx) : cOf (encCustom n ra rb wc c a b) = c := by
  change field _ 17 5 = _
  simp (disch := omega) only [encCustom, field_or, field_place_same, field_place_below, field_place_above, BitVec.zero_or,
    BitVec.or_zero]

theorem customNOf_encCustom (n : BitVec 8) (ra rb wc : Bool) (c a b : RegIdx) : customNOf (encCustom n ra rb wc c a b) = n := by
  change field _ 6 8 = _
  simp (disch := omega) only [encCustom, field_or, field_place_same, field_place_below, field_place_above, BitVec.zero_or,
    BitVec.or_zero]

theorem readraOf_encCustom (n : BitVec 8) (ra rb wc : Bool) (c a b : RegIdx) : readraOf (encCustom n ra rb wc c a b) = ra := by
  unfold readraOf encCustom
  simp only [BitVec.getLsbD_or, getLsbD_place]
  simp

theorem readrbOf_encCustom (n : BitVec 8) (ra rb wc : Bool) (c a b : RegIdx) : readrbOf (encCustom n ra rb wc c a b) = rb := by
  unfold readrbOf encCustom
  simp only [BitVec.getLsbD_or, getLsbD_place]
  simp

theorem writercOf_encCustom (n : BitVec 8) (ra rb wc : Bool) (c a b : RegIdx) : writercOf (encCustom n ra rb wc c a b) = wc := by
  unfold writercOf encCustom
  simp only [BitVec.getLsbD_or, getLsbD_place]
  simp

namespace Machine

/-- The word drawn field by field is the word the encoder builds. -/
theorem wordR_eq (a b c : RegIdx) (opx : BitVec 6) (n : BitVec 5) : wordR a b c opx n = encR a b c opx n := by
  apply BitVec.eq_of_getLsbD_eq
  intro i hi
  simp only [encR, BitVec.getLsbD_or, getLsbD_place]
  simp only [wordR, BitVec.getLsbD_append]
  interval_cases i <;> simp

/-- The word drawn field by field is the word the encoder builds. -/
theorem wordI_eq (a b : RegIdx) (imm : BitVec 16) (op : BitVec 6) : wordI a b imm op = encI a b imm op := by
  apply BitVec.eq_of_getLsbD_eq
  intro i hi
  simp only [encI, BitVec.getLsbD_or, getLsbD_place]
  simp only [wordI, BitVec.getLsbD_append]
  interval_cases i <;> simp

/-- The word drawn field by field is the word the encoder builds. -/
theorem wordJ_eq (imm : BitVec 26) (op : BitVec 6) : wordJ imm op = encJ imm op := by
  apply BitVec.eq_of_getLsbD_eq
  intro i hi
  simp only [encJ, BitVec.getLsbD_or, getLsbD_place]
  simp only [wordJ, BitVec.getLsbD_append]
  interval_cases i <;> simp

/-- The word drawn field by field is the word the encoder builds. -/
theorem wordCustom_eq (n : BitVec 8) (ra rb wc : Bool) (c a b : RegIdx) : wordCustom n ra rb wc c a b = encCustom n ra rb wc c a b := by
  apply BitVec.eq_of_getLsbD_eq
  intro i hi
  simp only [encCustom, BitVec.getLsbD_or, getLsbD_place]
  simp only [wordCustom, BitVec.getLsbD_append]
  interval_cases i <;> simp

end Machine

end Sys2Proof
end

