-- ==== Sys2Proof/Tests/Slice0.lean ====
section
/-! SUPPORT. Tests: the checks of well-formedness, one word of each row of the opcode table, one step of each instruction,
and for each statement with hypotheses a state that meets them. Words, operands and results are those of
95_test_vectors.md (sections 3.2 and 4) unless a docstring says otherwise. -/

namespace Sys2Proof.Tests

open Sys2Proof Sys2Proof.Machine

/-! ## Well-formedness -/

theorem test_wellFormed_refuses_br : WellFormed (.br 2#16) = false := by decide
theorem test_wellFormed_refuses_beq : WellFormed (.beq 1#5 2#5 1#16) = false := by decide
theorem test_wellFormed_refuses_bne : WellFormed (.bne 1#5 2#5 3#16) = false := by decide
theorem test_wellFormed_refuses_bge : WellFormed (.bge 1#5 2#5 0xFFFE#16) = false := by decide
theorem test_wellFormed_refuses_bgeu : WellFormed (.bgeu 1#5 2#5 2#16) = false := by decide
theorem test_wellFormed_refuses_blt : WellFormed (.blt 1#5 2#5 0x8001#16) = false := by decide
theorem test_wellFormed_refuses_bltu : WellFormed (.bltu 1#5 2#5 6#16) = false := by decide
theorem test_wellFormed_refuses_jmp : WellFormed (.jmp 31#5) = false := by decide
theorem test_wellFormed_admits :
    [.br 0xFFFC#16, .jmp 30#5, .beq 31#5 0#5 0x7FFC#16, .call 0x3FFFFFF#26, .add 0#5 31#5 0#5].all WellFormed = true := by
  decide

/-! ## Decoding and encoding: the example line of every instruction page, 95_test_vectors.md section 3.2 -/

/-- The decoder reads `i` from the word `w` and the encoder writes it. -/
def codes (p : Nat × Instr) : Bool :=
  decodeTableWord 32 p.1 == some p.2 && encode p.2 == BitVec.ofNat 32 p.1

theorem test_decode_data_transfer :
    [(0x29801907, .ldb 6#5 5#5 0x0064#16), (0x29801927, .ldbio 6#5 5#5 0x0064#16),
      (0x29801903, .ldbu 6#5 5#5 0x0064#16), (0x29801923, .ldbuio 6#5 5#5 0x0064#16),
      (0x2980190F, .ldh 6#5 5#5 0x0064#16), (0x2980192F, .ldhio 6#5 5#5 0x0064#16),
      (0x2980190B, .ldhu 6#5 5#5 0x0064#16), (0x2980192B, .ldhuio 6#5 5#5 0x0064#16),
      (0x29801917, .ldw 6#5 5#5 0x0064#16), (0x29801937, .ldwio 6#5 5#5 0x0064#16),
      (0x29801905, .stb 6#5 5#5 0x0064#16), (0x29801925, .stbio 6#5 5#5 0x0064#16),
      (0x2980190D, .sth 6#5 5#5 0x0064#16), (0x2980192D, .sthio 6#5 5#5 0x0064#16),
      (0x29801915, .stw 6#5 5#5 0x0064#16), (0x29801935, .stwio 6#5 5#5 0x0064#16)].all codes = true := by
  decide

theorem test_decode_arithmetic :
    [(0x3A0D883A, .add 6#5 7#5 8#5), (0x39BFE704, .addi 6#5 7#5 0xFF9C#16), (0x3A0DC83A, .sub 6#5 7#5 8#5),
      (0x3A0D383A, .mul 6#5 7#5 8#5), (0x39BFE724, .muli 6#5 7#5 0xFF9C#16), (0x3A0CF83A, .mulxss 6#5 7#5 8#5),
      (0x3A0CB83A, .mulxsu 6#5 7#5 8#5), (0x3A0C383A, .mulxuu 6#5 7#5 8#5), (0x3A0D283A, .div 6#5 7#5 8#5),
      (0x3A0D203A, .divu 6#5 7#5 8#5)].all codes = true := by
  decide

theorem test_decode_logical :
    [(0x3A0C703A, .and 6#5 7#5 8#5), (0x3980190C, .andi 6#5 7#5 0x0064#16), (0x3980192C, .andhi 6#5 7#5 0x0064#16),
      (0x3A0CB03A, .or 6#5 7#5 8#5), (0x39801914, .ori 6#5 7#5 0x0064#16), (0x39801934, .orhi 6#5 7#5 0x0064#16),
      (0x3A0CF03A, .xor 6#5 7#5 8#5), (0x3980191C, .xori 6#5 7#5 0x0064#16), (0x3980193C, .xorhi 6#5 7#5 0x0064#16),
      (0x3A0C303A, .nor 6#5 7#5 8#5)].all codes = true := by
  decide

theorem test_decode_comparison :
    [(0x3A0D003A, .cmpeq 6#5 7#5 8#5), (0x3A0CC03A, .cmpne 6#5 7#5 8#5), (0x3A0C403A, .cmpge 6#5 7#5 8#5),
      (0x3A0D403A, .cmpgeu 6#5 7#5 8#5), (0x3A0C803A, .cmplt 6#5 7#5 8#5), (0x3A0D803A, .cmpltu 6#5 7#5 8#5),
      (0x39801920, .cmpeqi 6#5 7#5 0x0064#16), (0x39801918, .cmpnei 6#5 7#5 0x0064#16),
      (0x39801908, .cmpgei 6#5 7#5 0x0064#16), (0x39801928, .cmpgeui 6#5 7#5 0x0064#16),
      (0x39801910, .cmplti 6#5 7#5 0x0064#16), (0x39801930, .cmpltui 6#5 7#5 0x0064#16)].all codes = true := by
  decide

theorem test_decode_shift :
    [(0x3A0C183A, .rol 6#5 7#5 8#5), (0x380C10FA, .roli 6#5 7#5 3#5), (0x3A0C583A, .ror 6#5 7#5 8#5),
      (0x3A0C983A, .sll 6#5 7#5 8#5), (0x380C90FA, .slli 6#5 7#5 3#5), (0x3A0CD83A, .srl 6#5 7#5 8#5),
      (0x380CD0FA, .srli 6#5 7#5 3#5), (0x3A0DD83A, .sra 6#5 7#5 8#5),
      (0x380DD0FA, .srai 6#5 7#5 3#5)].all codes = true := by
  decide

theorem test_decode_program_control :
    [(0x003FFB06, .br 0xFFEC#16), (0x00020000, .call 0x0000800#26), (0x303EE83A, .callr 6#5), (0x6000683A, .jmp 12#5),
      (0x00020001, .jmpi 0x0000800#26), (0xF800283A, .ret), (0x000CE03A, .nextpc 6#5),
      (0x31C00326, .beq 6#5 7#5 0x000C#16), (0x31FFFB1E, .bne 6#5 7#5 0xFFEC#16),
      (0x31FFFB0E, .bge 6#5 7#5 0xFFEC#16), (0x31FFFB2E, .bgeu 6#5 7#5 0xFFEC#16),
      (0x31FFFB16, .blt 6#5 7#5 0xFFEC#16), (0x31FFFB36, .bltu 6#5 7#5 0xFFEC#16),
      (0x003B683A, .trap 0#5)].all codes = true := by
  decide

theorem test_decode_other_control :
    [(0xEF80083A, .eret), (0xF03C483A, .bret), (0x003DA03A, .brk 0#5), (0x000737FA, .rdctl 3#5 31#5),
      (0x180171BA, .wrctl 6#5 3#5), (0x303FE73B, .flushd 6#5 0xFF9C#16), (0x303FE71B, .flushda 6#5 0xFF9C#16),
      (0x30000033, .initd 6#5 0x0000#16), (0x303FE713, .initda 6#5 0xFF9C#16), (0x3000603A, .flushi 6#5),
      (0x3001483A, .initi 6#5), (0x0000203A, .flushp), (0x0001B03A, .sync), (0x39800038, .rdprs 6#5 7#5 0x0000#16),
      (0x380CA03A, .wrprs 6#5 7#5)].all codes = true := by
  decide

theorem test_decode_custom :
    [(0x3A0D8032, .custom 0#8 true true false 6#5 7#5 8#5)].all codes = true := by
  decide

/-- Words that no instruction has (section 4.8). -/
theorem test_decode_reserved :
    [0x00000002, 0xFFFFFFFF, 0x0000003A, 0x0001F83A, 0x3A0CA83A].all (fun w => decodeTableWord 32 w == none) = true := by
  decide

/-- A word with non-zero constant fields decodes by OP and OPX6 (30_encoding.md R212): `ret` with A = 0. -/
theorem test_decode_nonCanonical : decodeTableWord 32 0x0000283A = some .ret := by decide

/-! ## One step -/

/-- The little-endian word `w` written to memory at `a`. -/
def put (a : Nat) (w : Word) (m : Memory) : Memory :=
  (((m.write a (w.extractLsb' 0 8)).write (a + 1) (w.extractLsb' 8 8)).write (a + 2) (w.extractLsb' 16 8)).write (a + 3)
    (w.extractLsb' 24 8)

/-- `s` with the registers of the normal set given. -/
def withRegs (s : State) (rs : List (RegIdx × Word)) : State := rs.foldl (fun s p => s.setGpr 0 p.1 p.2) s

/-- The start of a vector: `pc` 0x1000, `w` there, 0x80FF7F01 at 0x2000, the registers given. -/
def start (rs : List (RegIdx × Word)) (w : Word) : State :=
  withRegs { State.reset with pc := 0x1000#32, mem := put 0x2000 0x80FF7F01#32 (put 0x1000 w []) } rs

/-- What `f` reads after one step from `s`. -/
def stepped {α : Type} (s : State) (f : State → α) : Option α :=
  match step s with
  | .next t => some (f t)
  | _ => none

/-- What `f` reads after one step from `start rs w`. -/
def after {α : Type} (rs : List (RegIdx × Word)) (w : Word) (f : State → α) : Option α := stepped (start rs w) f

theorem test_ldb : after [(5#5, 0x2000#32)] 0x298000C7#32 (·.reg 6#5) = some 0xFFFFFF80#32 := by decide
theorem test_ldbu : after [(5#5, 0xFFFFA001#32)] 0x299FFFC3#32 (·.reg 6#5) = some 0x00000001#32 := by decide
theorem test_ldh : after [(5#5, 0x2000#32)] 0x2980008F#32 (·.reg 6#5) = some 0xFFFF80FF#32 := by decide
theorem test_ldhu : after [(5#5, 0x2000#32)] 0x2980008B#32 (·.reg 6#5) = some 0x000080FF#32 := by decide
theorem test_ldw : after [(5#5, 0x2000#32)] 0x29800017#32 (·.reg 6#5) = some 0x80FF7F01#32 := by decide
theorem test_ldbio : after [(5#5, 0x2000#32)] 0x298000E7#32 (·.reg 6#5) = some 0xFFFFFF80#32 := by decide
theorem test_ldbuio : after [(5#5, 0x2000#32)] 0x298000E3#32 (·.reg 6#5) = some 0x00000080#32 := by decide
theorem test_ldhio : after [(5#5, 0x2000#32)] 0x298000AF#32 (·.reg 6#5) = some 0xFFFF80FF#32 := by decide
theorem test_ldhuio : after [(5#5, 0x2000#32)] 0x298000AB#32 (·.reg 6#5) = some 0x000080FF#32 := by decide
theorem test_ldwio : after [(5#5, 0x2000#32)] 0x29800037#32 (·.reg 6#5) = some 0x80FF7F01#32 := by decide
theorem test_add : after [(7#5, 0x7FFFFFFF#32), (8#5, 0x1#32)] 0x3A0D883A#32 (·.reg 6#5) = some 0x80000000#32 := by
  decide
theorem test_addi : after [(7#5, 0x32#32)] 0x39BFE704#32 (·.reg 6#5) = some 0xFFFFFFCE#32 := by decide
theorem test_sub : after [(7#5, 0x80000000#32), (8#5, 0x1#32)] 0x3A0DC83A#32 (·.reg 6#5) = some 0x7FFFFFFF#32 := by
  decide
theorem test_and :
    after [(7#5, 0xF0F0A5A5#32), (8#5, 0xFF0FF00#32)] 0x3A0C703A#32 (·.reg 6#5) = some 0x00F0A500#32 := by
  decide
theorem test_andi : after [(7#5, 0xFFFFFFFF#32)] 0x39A0000C#32 (·.reg 6#5) = some 0x00008000#32 := by decide
theorem test_andhi : after [(7#5, 0xF0F0A5A5#32)] 0x39BFFFEC#32 (·.reg 6#5) = some 0xF0F00000#32 := by decide
theorem test_or :
    after [(7#5, 0xF0F0A5A5#32), (8#5, 0xFF0FF00#32)] 0x3A0CB03A#32 (·.reg 6#5) = some 0xFFF0FFA5#32 := by
  decide
theorem test_ori : after [(7#5, 0x1#32)] 0x39A00014#32 (·.reg 6#5) = some 0x00008001#32 := by decide
theorem test_orhi : after [(7#5, 0x1#32)] 0x39A00034#32 (·.reg 6#5) = some 0x80000001#32 := by decide
theorem test_xor :
    after [(7#5, 0xF0F0A5A5#32), (8#5, 0xFF0FF00#32)] 0x3A0CF03A#32 (·.reg 6#5) = some 0xFF005AA5#32 := by
  decide
theorem test_xori : after [(7#5, 0xF0F0A5A5#32)] 0x39BFFFDC#32 (·.reg 6#5) = some 0xF0F05A5A#32 := by decide
theorem test_xorhi : after [(7#5, 0xF0F0A5A5#32)] 0x39BFFFFC#32 (·.reg 6#5) = some 0x0F0FA5A5#32 := by decide
theorem test_nor :
    after [(7#5, 0xF0F0A5A5#32), (8#5, 0xFF0FF00#32)] 0x3A0C303A#32 (·.reg 6#5) = some 0x000F005A#32 := by
  decide
theorem test_mul : after [(7#5, 0xFFFFFFFE#32), (8#5, 0x3#32)] 0x3A0D383A#32 (·.reg 6#5) = some 0xFFFFFFFA#32 := by
  decide
theorem test_muli : after [(7#5, 0x3#32)] 0x39BFE724#32 (·.reg 6#5) = some 0xFFFFFED4#32 := by decide
theorem test_mulxss : after [(7#5, 0x2#32), (8#5, 0x80000000#32)] 0x3A0CF83A#32 (·.reg 6#5) = some 0xFFFFFFFF#32 := by
  decide
theorem test_mulxsu_1 :
    after [(7#5, 0xFFFFFFFF#32), (8#5, 0xFFFFFFFF#32)] 0x3A0CB83A#32 (·.reg 6#5) = some 0xFFFFFFFF#32 := by
  decide
theorem test_mulxsu_2 :
    after [(7#5, 0x2#32), (8#5, 0x80000000#32)] 0x3A0CB83A#32 (·.reg 6#5) = some 0x00000001#32 := by
  decide
theorem test_mulxuu :
    after [(7#5, 0xFFFFFFFF#32), (8#5, 0xFFFFFFFF#32)] 0x3A0C383A#32 (·.reg 6#5) = some 0xFFFFFFFE#32 := by
  decide
theorem test_div_1 : after [(7#5, 0xFFFFFFF9#32), (8#5, 0x2#32)] 0x3A0D283A#32 (·.reg 6#5) = some 0xFFFFFFFD#32 := by
  decide
theorem test_div_2 : after [(7#5, 0x7#32), (8#5, 0xFFFFFFFE#32)] 0x3A0D283A#32 (·.reg 6#5) = some 0xFFFFFFFD#32 := by
  decide
theorem test_divu : after [(7#5, 0xFFFFFFF9#32), (8#5, 0x2#32)] 0x3A0D203A#32 (·.reg 6#5) = some 0x7FFFFFFC#32 := by
  decide
theorem test_cmpeq :
    after [(7#5, 0x5#32), (8#5, 0x6#32), (6#5, 0xFFFFFFFF#32)] 0x3A0D003A#32 (·.reg 6#5) = some 0x00000000#32 := by
  decide
theorem test_cmpne : after [(7#5, 0x5#32), (8#5, 0x6#32)] 0x3A0CC03A#32 (·.reg 6#5) = some 0x00000001#32 := by decide
theorem test_cmpge :
    after [(7#5, 0x80000000#32), (8#5, 0x7FFFFFFF#32)] 0x3A0C403A#32 (·.reg 6#5) = some 0x00000000#32 := by
  decide
theorem test_cmpgeu :
    after [(7#5, 0x80000000#32), (8#5, 0x7FFFFFFF#32)] 0x3A0D403A#32 (·.reg 6#5) = some 0x00000001#32 := by
  decide
theorem test_cmplt : after [(7#5, 0xFFFFFFFF#32), (8#5, 0x1#32)] 0x3A0C803A#32 (·.reg 6#5) = some 0x00000001#32 := by
  decide
theorem test_cmpltu : after [(7#5, 0xFFFFFFFF#32), (8#5, 0x1#32)] 0x3A0D803A#32 (·.reg 6#5) = some 0x00000000#32 := by
  decide
theorem test_cmpeqi : after [(7#5, 0xFFFFFFFF#32)] 0x39BFFFE0#32 (·.reg 6#5) = some 0x00000001#32 := by decide
theorem test_cmpnei : after [(7#5, 0x64#32)] 0x39801918#32 (·.reg 6#5) = some 0x00000000#32 := by decide
theorem test_cmpgei : after [(7#5, 0x0#32)] 0x39BFFFC8#32 (·.reg 6#5) = some 0x00000001#32 := by decide
theorem test_cmpgeui : after [(7#5, 0xFFFFFFFF#32)] 0x39BFFFE8#32 (·.reg 6#5) = some 0x00000001#32 := by decide
theorem test_cmplti : after [(7#5, 0x80000000#32)] 0x39801910#32 (·.reg 6#5) = some 0x00000001#32 := by decide
theorem test_cmpltui : after [(7#5, 0xFFFFFFFE#32)] 0x39BFFFF0#32 (·.reg 6#5) = some 0x00000000#32 := by decide
theorem test_rol :
    after [(7#5, 0x80000001#32), (8#5, 0xFFFFFFE1#32)] 0x3A0C183A#32 (·.reg 6#5) = some 0x00000003#32 := by
  decide
theorem test_roli : after [(7#5, 0x80000001#32)] 0x380C10FA#32 (·.reg 6#5) = some 0x0000000C#32 := by decide
theorem test_ror : after [(7#5, 0x80000001#32), (8#5, 0x21#32)] 0x3A0C583A#32 (·.reg 6#5) = some 0xC0000000#32 := by
  decide
theorem test_sll : after [(7#5, 0x80000001#32), (8#5, 0x20#32)] 0x3A0C983A#32 (·.reg 6#5) = some 0x80000001#32 := by
  decide
theorem test_slli : after [(7#5, 0x80000001#32)] 0x380C90FA#32 (·.reg 6#5) = some 0x00000008#32 := by decide
theorem test_srl : after [(7#5, 0x80000001#32), (8#5, 0x1F#32)] 0x3A0CD83A#32 (·.reg 6#5) = some 0x00000001#32 := by
  decide
theorem test_srli : after [(7#5, 0x80000001#32)] 0x380CD0FA#32 (·.reg 6#5) = some 0x10000000#32 := by decide
theorem test_sra : after [(7#5, 0x80000001#32), (8#5, 0x1F#32)] 0x3A0DD83A#32 (·.reg 6#5) = some 0xFFFFFFFF#32 := by
  decide
theorem test_srai : after [(7#5, 0x80000001#32)] 0x380DD0FA#32 (·.reg 6#5) = some 0xF0000000#32 := by decide
theorem test_beq : after [(6#5, 0x1#32), (7#5, 0x1#32)] 0x31C00326#32 (·.pc) = some 0x00001010#32 := by decide
theorem test_bne : after [(6#5, 0x1#32), (7#5, 0x2#32)] 0x31FFFB1E#32 (·.pc) = some 0x00000FF0#32 := by decide
theorem test_bge : after [(6#5, 0xFFFFFFFF#32), (7#5, 0x1#32)] 0x31C0030E#32 (·.pc) = some 0x00001004#32 := by decide
theorem test_bgeu : after [(6#5, 0xFFFFFFFF#32), (7#5, 0x1#32)] 0x31C0032E#32 (·.pc) = some 0x00001010#32 := by decide
theorem test_blt : after [(6#5, 0xFFFFFFFF#32), (7#5, 0x1#32)] 0x31C00316#32 (·.pc) = some 0x00001010#32 := by decide
theorem test_bltu : after [(6#5, 0xFFFFFFFF#32), (7#5, 0x1#32)] 0x31C00336#32 (·.pc) = some 0x00001004#32 := by decide
theorem test_br : after [] 0x003FFB06#32 (·.pc) = some 0x00000FF0#32 := by decide
theorem test_jmp : after [(12#5, 0x4000#32)] 0x6000683A#32 (·.pc) = some 0x00004000#32 := by decide
theorem test_ret : after [(31#5, 0x1234568#32)] 0xF800283A#32 (·.pc) = some 0x01234568#32 := by decide
theorem test_jmpi : after [] 0x00020001#32 (·.pc) = some 0x00002000#32 := by decide

theorem test_add_same_register : after [(6#5, 0x40000001#32)] 0x318D883A#32 (·.reg 6#5) = some 0x80000002#32 := by decide
theorem test_add_r0 : after [(7#5, 5#32), (8#5, 6#32)] 0x3A01883A#32 (fun t => (t.reg 0#5, t.pc)) =
    some (0#32, 0x1004#32) := by
  decide
theorem test_ldw_misaligned :
    after [(5#5, 0x2000#32)] 0x29800097#32 (fun t => (t.exception, t.badaddr, t.reg 29#5, t.pc)) =
      some (0x18#32, 0x2002#32, 0x1004#32, 0x20#32) := by decide
theorem test_stb : after [(5#5, 0x2000#32), (6#5, 0xAABBCCDD#32)] 0x29800045#32
    (fun t => (List.range 4).map (fun k => t.mem.read (0x2000 + k))) = some [0x01#8, 0xDD#8, 0xFF#8, 0x80#8] := by decide
theorem test_sth : after [(5#5, 0x2000#32), (6#5, 0xAABBCCDD#32)] 0x2980008D#32
    (fun t => (List.range 4).map (fun k => t.mem.read (0x2000 + k))) = some [0x01#8, 0x7F#8, 0xDD#8, 0xCC#8] := by decide
theorem test_stw : after [(5#5, 0x2000#32), (6#5, 0xAABBCCDD#32)] 0x29800015#32
    (fun t => (List.range 4).map (fun k => t.mem.read (0x2000 + k))) = some [0xDD#8, 0xCC#8, 0xBB#8, 0xAA#8] := by decide
theorem test_stbio : after [(5#5, 0x2000#32), (6#5, 0xAABBCCDD#32)] 0x29800025#32 (·.mem.read 0x2000) = some 0xDD#8 := by
  decide
theorem test_sthio : after [(5#5, 0x2000#32), (6#5, 0xAABBCCDD#32)] 0x2980002D#32 (·.mem.read 0x2001) = some 0xCC#8 := by
  decide
theorem test_stwio : after [(5#5, 0x2000#32), (6#5, 0xAABBCCDD#32)] 0x29800035#32 (·.mem.read 0x2003) = some 0xAA#8 := by
  decide
theorem test_divu_by_zero : after [(7#5, 5#32)] 0x3A0D203A#32 (fun t => (t.exception, t.reg 6#5, t.pc)) =
    some (0x20#32, 0#32, 0x20#32) := by decide
theorem test_call_from_last_word :
    stepped { State.reset with pc := 0x0FFFFFFC#32, mem := put 0x0FFFFFFC 0xFFFFFFC0#32 [] }
      (fun t => (t.reg 31#5, t.pc)) = some (0x10000000#32, 0x0FFFFFFC#32) := by decide
theorem test_callr_ra : after [(31#5, 0x3000#32)] 0xF83EE83A#32 (fun t => (t.reg 31#5, t.pc)) =
    some (0x1004#32, 0x3000#32) := by
  decide
theorem test_jmp_misaligned : after [(12#5, 0x4001#32)] 0x6000683A#32 (fun t => (t.exception, t.badaddr, t.pc)) =
    some (0x1C#32, 0x4001#32, 0x20#32) := by decide
/-- 45_program_control.md R371: `jmp r31` is illegal. -/
theorem test_jmp_r31 : step (start [(31#5, 0x4000#32)] 0xF800683A#32) = .refused .jmpR31 := rfl
theorem test_nextpc : after [] 0x000CE03A#32 (·.reg 6#5) = some 0x1004#32 := by decide
theorem test_trap : stepped { start [] 0x003B6FFA#32 with status := 0x00800001#32 }
    (fun t => (t.reg 29#5, t.status, t.estatus, t.exception, t.pc)) =
      some (0x1004#32, 0x00800000#32, 0x00800001#32, 0x0C#32, 0x20#32) := by decide
theorem test_eret : stepped { start [(29#5, 0x3000#32)] 0xEF80083A#32 with estatus := 0x00800001#32 }
    (fun t => (t.status, t.pc)) = some (0x00800001#32, 0x3000#32) := by decide
theorem test_eret_misaligned : stepped { start [(29#5, 0x3002#32)] 0xEF80083A#32 with estatus := 0x00800001#32 }
    (fun t => (t.reg 29#5, t.estatus, t.badaddr, t.pc)) = some (0x1004#32, 0x00800000#32, 0x3002#32, 0x20#32) := by decide
theorem test_break : stepped { start [] 0x003DA17A#32 with status := 0x00800001#32 }
    (fun t => (t.reg 30#5, t.status, t.bstatus, t.pc)) =
      some (0x1004#32, 0x00800000#32, 0x00800001#32, 0x40#32) := by decide
theorem test_bret : stepped { start [(30#5, 0x5000#32)] 0xF03C483A#32 with bstatus := 0x00800001#32 }
    (fun t => (t.status, t.pc)) = some (0x00800001#32, 0x5000#32) := by decide
theorem test_rdctl_ipending : stepped { start [] 0x000D313A#32 with ienable := 9#32, irq := 12#32 } (·.reg 6#5) =
    some 8#32 := by decide
theorem test_rdctl_reserved : after [] 0x000D37FA#32 (·.reg 6#5) = some 0#32 := by decide
theorem test_wrctl_status : after [(7#5, 0xFFFFFFFF#32)] 0x3801703A#32 (·.status) = some 0x00800001#32 := by decide
theorem test_wrctl_ienable : after [(7#5, 9#32)] 0x380170FA#32 (·.ienable) = some 9#32 := by decide
theorem test_caches_absent :
    [0x303FE73B#32, 0x303FE71B#32, 0x303FE713#32, 0x30000033#32, 0x3000603A#32, 0x3001483A#32, 0x0000203A#32,
      0x0001B03A#32].all (fun w =>
        let s := start [(6#5, 0x2064#32)] w
        stepped s (fun t => decide (t = { s with pc := 0x1004#32 })) == some true) = true := by
  decide
theorem test_rdprs_without_shadow_sets : after [(7#5, 5#32)] 0x39800038#32 (·.exception) = some 0x14#32 := by decide
theorem test_wrprs_without_shadow_sets : after [(7#5, 5#32)] 0x380CA03A#32 (·.exception) = some 0x14#32 := by decide
/-- 10_state.md R25: `wrprs r0, r7` writes register 0 of a shadow set. -/
theorem test_wrprs_shadow_r0 :
    stepped (withRegs { State.resetOf { Config.default with numShadow := 2 } with
        pc := 0x1000#32, mem := put 0x1000 0x3800A03A#32 [], status := setPrs 2#6 0x00800000#32 } [(7#5, 9#32)])
      (fun t => (t.getGpr 2 0#5, t.getGpr 1 0#5, t.pc)) = some (9#32, 0#32, 0x1004#32) := by decide
/-- What `ldw r0, 0(r5)` (40_data_transfer.md R250) leaves in register 0 of set 0 and of set 1, run in the register set `crs` of a core
whose loads write register 0 of a shadow set as `writes` says; the word at the address is 7. -/
def loadedR0 (writes : Bool) (crs : BitVec 6) : Option (Word × Word) :=
  let s := { State.resetOf { Config.default with numShadow := 1, loadsWriteShadowR0 := writes } with
    status := setCrs crs 0x00800000#32 }
  match exec (.ldw 0#5 5#5 0#16) (State.setReg { s with mem := put 0x2000 7#32 [] } 5#5 0x2000#32) with
  | .next t => some (t.getGpr 0 0#5, t.getGpr 1 0#5)
  | _ => none
/-- 40_data_transfer.md R259 (d): a load to `r0` of a shadow set changes it; (a): in the normal set the value is discarded. -/
theorem test_load_shadow_r0 : loadedR0 true 1#6 = some (0#32, 7#32) ∧ loadedR0 true 0#6 = some (0#32, 0#32) := by decide
/-- 10_state.md R25: an ordinary write to register 0 of a shadow set has no effect. -/
theorem test_load_shadow_r0_off : loadedR0 false 1#6 = some (0#32, 0#32) := by decide
/-- 20_memory.md R145: `flushp` empties the pipeline. -/
theorem test_flushp : stepped { start [] 0x0000203A#32 with prefetched := [(0, [(0, 5#32)])], eccinjOld := 0x40#32 }
    (fun t => (t.prefetched, t.eccinjOld, t.pc)) = some ([], 0#32, 0x1004#32) := by decide
theorem test_reserved_word : after [] 0x3A0CA83A#32 (fun t => (t.exception, t.reg 29#5)) = some (0x14#32, 0x1004#32) := by
  decide
theorem test_interrupt :
    stepped { start [(6#5, 1#32)] 0x31800044#32 with status := 0x00800001#32, ienable := 8#32, irq := 8#32 }
      (fun t => (t.reg 6#5, t.reg 29#5, t.estatus, t.exception)) = some (1#32, 0x1004#32, 0x00800001#32, 8#32) := by decide
theorem test_interrupt_masked :
    stepped { start [(6#5, 1#32)] 0x31800044#32 with status := 0x00800001#32, ienable := 4#32, irq := 8#32 }
      (fun t => t.reg 6#5) = some 2#32 := by decide

/-! ## With an MMU (section 4.10) -/

/-- The default configuration with an MMU. -/
def mmuCfg : Config := { Config.default with hasMmu := true }

/-- The entry of section 4.10: VPN 0x00400, PID 1 to PFN 0x00005, with the permissions given. -/
def entry (r w x : Bool) : TlbEntry := { TlbEntry.zero with tag := 0x40, pid := 1#14, pfn := 5#20, r := r, w := w, x := x }

/-- The start of a row: `pc` in the kernel partition, one TLB entry, PID 1. -/
def mmuStart (rs : List (RegIdx × Word)) (w : Word) (e : TlbEntry) : State :=
  let s := State.resetOf mmuCfg
  withRegs { s with pc := 0xC0001000#32, mem := put 0x5004 0x12345678#32 (put 0x1000 w []), tlb := e :: s.tlb.tail,
                    tlbmisc := 0x10#32 } rs

theorem test_mmu_load :
    (match memRead false 0x00400004#32 4 extendZero (mmuStart [] 0#32 (entry true true false)) with
      | .ok v _ => some v
      | .stop _ => none) = some 0x12345678#32 := by decide
theorem test_mmu_miss :
    stepped { mmuStart [(5#5, 0x400000#32)] 0x29800117#32 (entry true true false) with tlbmisc := 0x20#32 }
      (fun t => (t.reg 29#5, t.status, t.exception, t.badaddr, t.pteaddr, t.tlbmisc, t.pc)) =
    some (0xC0001004#32, 0x00800004#32, 0x30#32, 0x400004#32, 0x1000#32, 0x00040021#32, 0xC0000100#32) := by decide
theorem test_mmu_write_violation :
    stepped (mmuStart [(5#5, 0x400000#32)] 0x29800115#32 (entry true false false))
      (fun t => (t.exception, t.badaddr, t.tlbmisc, t.pc)) = some (0x3C#32, 0x400004#32, 0x00040013#32, 0xC0000020#32) := by
  decide
theorem test_mmu_wrctl_tlbacc :
    stepped { mmuStart [(7#5, 0x01C00005#32)] 0x3801727A#32 TlbEntry.zero with pteaddr := 0x1000#32, tlbmisc := 0x00340010#32 }
      (fun t => (t.tlbacc, t.tlbmisc, t.tlb[3]?)) =
    some (0x01C00005#32, 0x00440010#32, some { entry true true false with c := true }) := by decide

/-! ## States that meet the premises of the statements -/

/-- Shadow sets and an EIC. -/
def eicCfg : Config := { Config.default with hasEic := true, numShadow := 2 }

/-- Both caches, 512 bytes each. -/
def cacheCfg : Config := { Config.default with icacheBytes := 512, dcacheBytes := 512 }

/-- An MPU with two regions of each kind. -/
def mpuCfg : Config := { Config.default with hasMpu := true }

/-- ECC. -/
def eccCfg : Config := { Config.default with hasEcc := true }

/-- The three checks off. -/
def uncheckedCfg : Config :=
  { Config.default with checkIllegal := false, checkMisaligned := false, checkDivErr := false, hwInitda := false }

/-- Nios II/e. -/
def economyCfg : Config := { Config.default with coreKind := .e }

/-- DecodeEncodeRoundTrip: the boundary values of the two checks. -/
theorem witness_wellFormed : WellFormed (.jmp 30#5) = true ∧ WellFormed (.blt 0#5 31#5 0x8000#16) = true := by decide

/-- WordsDecodeByOpAndOpx: words that decode. -/
theorem witness_decodeWord : decodeWord 0x0000283A#32 = .ok .ret ∧ decodeWord 0xFFFFFFC0#32 = .ok (.call 0x3FFFFFF#26) :=
  ⟨rfl, rfl⟩

/-- WordsDecodeByOpAndOpx, ReservedWordRaises: words that do not; the check on and off, and a word of INTERNAL_ENCODINGS. -/
theorem witness_reservedWord :
    decodeWord 0x00000002#32 = .error (.reservedOp 2#6) ∧ decodeWord 0x0001F83A#32 = .error (.reservedOpx 0x3F#6)
    ∧ 0x0001F83A#32 ∉ State.reset.cfg.internalWords ∧ State.reset.cfg.illegalChecked = true
    ∧ 0x0001F83A#32 ∉ uncheckedCfg.internalWords ∧ uncheckedCfg.illegalChecked = false
    ∧ 0x0001F83A#32 ∈ { Config.default with internalWords := [0x0001F83A#32] }.internalWords :=
  ⟨rfl, rfl, by decide, by decide, by decide, by decide, by decide⟩

/-- Ready: at reset, and in the last shadow set. -/
theorem witness_ready :
    State.reset.Ready ∧ State.Ready { State.resetOf eicCfg with status := setCrs 2#6 0x00800000#32 }
    ∧ (State.resetOf economyCfg).Ready ∧ (State.resetOf uncheckedCfg).Ready := by
  unfold State.Ready State.SetImplemented
  decide

/-- MultiplyResults and DivideResults: the hardware of each kind; the operands of the two division errors. -/
theorem witness_hardware :
    (State.reset.cfg.isF = true ∧ State.reset.cfg.hwMul = .mulx ∧ State.reset.cfg.hwDiv = true)
    ∧ economyCfg.isF = false ∧ uncheckedCfg.checkDivErr = false
    ∧ (withRegs State.reset [(1#5, 0x80000000#32), (2#5, 0xFFFFFFFF#32)]).Ready
    ∧ ((withRegs State.reset [(1#5, 0x80000000#32), (2#5, 0xFFFFFFFF#32)]).reg 1#5).toInt = -2 ^ 31
    ∧ ((withRegs State.reset [(1#5, 0x80000000#32), (2#5, 0xFFFFFFFF#32)]).reg 2#5).toInt = -1
    ∧ ((withRegs State.reset [(1#5, 0x80000000#32), (2#5, 0xFFFFFFFF#32)]).reg 3#5) = 0#32 := by
  unfold State.Ready State.SetImplemented
  decide

/-- LoadResults: the last word of the implemented data space, for a plain and an io access. -/
theorem witness_reaches_load :
    let s := withRegs State.reset [(5#5, 0x7FFFFFFC#32)]
    s.Ready ∧ (s.effAddr 5#5 0#16).toNat % 4 = 0 ∧ s.Reaches (s.effAddr 5#5 0#16) .load false 0x7FFFFFFC s
    ∧ s.Reaches (s.effAddr 5#5 0#16) .load true 0x7FFFFFFC s :=
  ⟨⟨rfl, by unfold State.SetImplemented; decide⟩, by decide, ⟨rfl, _, rfl, .inr ⟨by decide, by decide⟩⟩,
    ⟨rfl, _, rfl, .inr ⟨by decide, by decide⟩⟩⟩

/-- LoadResults, MisalignedDataAccess, CachedLoadResults, CachedStoreResults: register 0 in the normal set and in a shadow set, with
loads that write it there and loads that do not. -/
theorem witness_loadR0 :
    [true, false].all (fun w =>
      [0#6, 1#6].all (fun crs =>
        let s := { State.resetOf { cacheCfg with numShadow := 1, loadsWriteShadowR0 := w, checkMisaligned := false } with
          status := setCrs crs 0x00800000#32 }
        decide (s.shadow.length = s.cfg.shadowSets ∧ s.crs ≤ s.cfg.shadowSets ∧ s.crs = crs.toNat
          ∧ s.cfg.loadsWriteShadowR0 = w ∧ s.cfg.misalignedChecked = false))) = true
    ∧ (let s := { State.resetOf { cacheCfg with numShadow := 1, loadsWriteShadowR0 := true } with
         status := setCrs 1#6 0x00800000#32 }
       s.Ready ∧ s.Reaches 0x2000#32 .load true 0x2000 s ∧ s.Caches 0x2000#32 .load 0x2000 s) :=
  ⟨by decide, ⟨rfl, by unfold State.SetImplemented; decide⟩, ⟨rfl, _, rfl, .inr ⟨by decide, by decide⟩⟩,
    rfl, by decide, rfl, by unfold State.LinesWhole; decide, rfl, _, rfl, by decide, by decide⟩

/-- LoadResults, StoreResults: an access of a data tightly-coupled memory, with a data cache. -/
theorem witness_reaches_tcm :
    let s := withRegs (State.resetOf { cacheCfg with dtcm := [{ base := 0x2000, size := 64 }] }) [(5#5, 0x203C#32)]
    s.Ready ∧ s.mem.wf = true ∧ s.Reaches (s.effAddr 5#5 0#16) .load false 0x203C s
    ∧ s.Reaches (s.effAddr 5#5 0#16) .store false 0x203C s :=
  ⟨⟨rfl, by unfold State.SetImplemented; decide⟩, rfl, ⟨rfl, _, rfl, .inl ⟨by decide, rfl⟩⟩,
    ⟨rfl, _, rfl, .inl ⟨by decide, rfl⟩⟩⟩

/-- StoreResults: an address whose bit 31 asks for the cache bypass. -/
theorem witness_reaches_store :
    let s := withRegs State.reset [(5#5, 0x80002000#32)]
    s.mem.wf = true ∧ (s.effAddr 5#5 0#16).toNat % 4 = 0 ∧ s.Reaches (s.effAddr 5#5 0#16) .store false 0x2000 s
    ∧ s.Reaches (s.effAddr 5#5 0#16) .store true 0x2000 s :=
  ⟨rfl, by decide, ⟨rfl, _, rfl, .inr ⟨by decide, by decide⟩⟩, ⟨rfl, _, rfl, .inr ⟨by decide, by decide⟩⟩⟩

/-- LoadResults, StoreResults, DataCacheInstructions: accesses that an MPU region with MT = 3 grants, whose translation draws (U7). -/
theorem witness_reaches_mt3 :
    let s : State := { State.resetOf { Config.default with hasMpu := true } with
      config := 1#32, dregions := [{ base := 0x20#24, lim := 0xFFFFF0#24, mt := 3#2, perm := 6#3 }] }
    s.Reaches 0x2000#32 .load false 0x2000 s.drawn ∧ s.Reaches 0x2000#32 .store false 0x2000 s.drawn
    ∧ (∀ c, usesDcache s.cfg false c 0x2000 = false) ∧ s.drawn ≠ s
    ∧ ∀ kind, ∃ c, translateData 0x2000#32 kind s = .ok (0x2000, c) s.drawn :=
  have h : ∀ c, usesDcache { Config.default with hasMpu := true } false c 0x2000 = false := by decide
  ⟨⟨rfl, _, rfl, .inr ⟨by decide, h _⟩⟩, ⟨rfl, _, rfl, .inr ⟨by decide, h _⟩⟩, h, by decide,
    fun kind => ⟨_, by cases kind <;> rfl⟩⟩

/-- LoadResults, CachedLoadResults: the last mapped word; a platform that maps nothing, where the destination is free. -/
theorem witness_unmapped : (∀ k, k < 4 → State.reset.cfg.dataMapped (0x7FFFFFFC + k) = true)
    ∧ State.reset.cfg.dataMapped 0x80000000 = false
    ∧ (let s := State.resetOf { Config.default with memoryMap := [] }
       s.Reaches 0x2000#32 .load false 0x2000 s ∧ s.cfg.dataMapped 0x2000 = false)
    ∧ (let s := State.resetOf { cacheCfg with memoryMap := [] }
       s.Caches 0x2000#32 .load 0x2000 s) :=
  ⟨by decide, by decide, ⟨⟨rfl, _, rfl, .inr ⟨by decide, by decide⟩⟩, by decide⟩,
    rfl, by decide, rfl, by unfold State.LinesWhole; decide, rfl, _, rfl, by decide, by decide⟩

/-- MisalignedDataAccess: both widths, checked and unchecked. -/
theorem witness_misalignedData :
    [Config.default, uncheckedCfg].all (fun c =>
      let s := withRegs (State.resetOf c) [(5#5, 0x2001#32), (6#5, 0x2002#32)]
      decide (s.shadow.length = s.cfg.shadowSets ∧ s.crs ≤ s.cfg.shadowSets ∧ (s.effAddr 5#5 0#16).toNat % 2 ≠ 0
        ∧ (s.effAddr 6#5 0#16).toNat % 2 = 0 ∧ (s.effAddr 6#5 0#16).toNat % 4 ≠ 0)) = true
    ∧ State.reset.UserMay 0x2001#32 ∧ (State.resetOf uncheckedCfg).cfg.misalignedChecked = false
    ∧ (withRegs (State.resetOf uncheckedCfg) [(5#5, 0x2001#32)]).mem.wf = true
    ∧ (withRegs (State.resetOf uncheckedCfg) [(5#5, 0x2001#32)]).LinesWhole := by
  unfold State.UserMay State.LinesWhole
  decide

/-- MisalignedDataAccess: an unchecked `stw r6, 0(r5)` at 0x2002 goes on (20_memory.md R108, U5). -/
theorem test_stw_misaligned_unchecked :
    (match exec (.stw 6#5 5#5 0#16) (withRegs (State.resetOf uncheckedCfg) [(5#5, 0x2002#32)]) with
      | .next t => some (t.pc, t.exception, t.reg 5#5)
      | _ => none) = some (4#32, 0#32, 0x2002#32) := by
  decide

/-- User mode with an MMU. -/
def userMmu : State := { State.resetOf mmuCfg with status := 0x00800002#32 }

/-- UserModeTraps: the first and the last address of the kernel's half. -/
theorem witness_supervisorOnlyData :
    userMmu.cfg.mmu = true ∧ stU userMmu.status = true ∧ userMmu.cfg.initdaImplemented = true
    ∧ bit ((withRegs userMmu [(5#5, 0x80000000#32)]).effAddr 5#5 0#16) 31 = true
    ∧ bit (userMmu.effAddr 0#5 0xFFFF#16) 31 = true := by
  decide

/-- UnmappedTranslation: without an MPU, and with one that is off. -/
theorem witness_flat : State.reset.cfg.mmu = false ∧ State.reset.mpuOn = false
    ∧ (State.resetOf mpuCfg).cfg.mmu = false ∧ (State.resetOf mpuCfg).mpuOn = false
    ∧ (State.resetOf { Config.default with bit31Bypass := false }).cfg.bypass31 = false := by decide

/-- UnmappedTranslation: the bounds of the kernel and the I/O partition. -/
theorem witness_partitions :
    (State.resetOf mmuCfg).cfg.mmu = true ∧ stU (State.resetOf mmuCfg).status = false ∧ stU userMmu.status = true
    ∧ 0xC0000000 ≤ (0xC0000000#32).toNat ∧ (0xDFFFFFFF#32).toNat < 0xE0000000 ∧ 0xC0000000 ≤ (0xFFFFFFFF#32).toNat := by
  decide

/-- TlbTranslation: no match, one match of each permission, more than one match (every entry of the table at reset). -/
theorem witness_tlb :
    let s := State.resetOf mmuCfg
    s.cfg.mmu = true ∧ s.cfg.ecc = false ∧ s.tlbFinds 0xBFFFF#20 = [] ∧ (s.tlbFinds 0x00000#20).length = 16
    ∧ (mmuStart [] 0#32 (entry true false true)).tlbFinds 0x00400#20 = [entry true false true]
    ∧ (mmuStart [] 0#32 (entry false true false)).tlbFinds 0x00400#20 = [entry false true false] := by
  decide

/-- An MPU that is on, its first data region with the permission, in user mode or not. -/
def mpuState (user : Bool) (perm : BitVec 3) (mt : BitVec 2) : State :=
  { State.resetOf mpuCfg with
    status := setU user 0x00800000#32,
    config := 1#32,
    iregions := [{ base := 0x20#24, lim := 0xFFFFF0#24, mt := 0#2, perm := 1#3 },
                 { base := 0x30#24, lim := 0xFFFFF0#24, mt := 0#2, perm := 0#3 }],
    dregions := [{ base := 0x20#24, lim := 0xFFFFF0#24, mt := mt, perm := perm },
                 { base := 0x30#24, lim := 0xFFFFF0#24, mt := 0#2, perm := 6#3 }] }

/-- MpuDataCheck: aligned regions; the first address of the first region, the address after its last, an address that no
region matches; every permission. -/
theorem witness_mpu :
    [0#3, 1#3, 2#3, 3#3, 4#3, 5#3, 6#3, 7#3].all (fun p => [true, false].all fun u =>
      let s := mpuState u p 3#2
      !s.cfg.mmu && s.mpuOn && s.dregions.all (fun g => regionMisaligned s.cfg g == false)
        && (s.dregions.find? (fun g => regionMatches s.cfg g 0x2000)).map (·.perm) == some p
        && (s.dregions.find? (fun g => regionMatches s.cfg g 0x2FFF)).map (·.mt) == some 3#2
        && (s.dregions.find? (fun g => regionMatches s.cfg g 0x3000)).map (·.perm) == some 6#3
        && (s.dregions.find? (fun g => regionMatches s.cfg g 0x4000)) == none) = true := by
  decide

/-- MpuDataCheck: the four memory types of a region that is granted, at an address with and without the bypass bit, and in a
peripheral region. -/
theorem witness_mpuCacheability :
    [0#2, 1#2, 2#2, 3#2].all (fun m =>
      let s := mpuState true 6#3 m
      let t := { s with cfg := { mpuCfg with periphRegion := some { base := 0x2000, size := 0x1000 } } }
      decide ((s.cfg.bypass31 && bit (0x80002000#32) 31) = true ∧ (s.cfg.bypass31 && bit (0x2000#32) 31) = false
        ∧ flatPhysical s.cfg 0x80002000#32 = 0x2000 ∧ inPeriph s.cfg 0x2000 = false ∧ inPeriph t.cfg 0x2FFF = true
        ∧ t.mpuOn = true ∧ t.cfg.mmu = false)
        && (s.dregions.find? (fun g => regionMatches s.cfg g 0x2000)).map (fun g => (g.perm, g.mt)) == some (6#3, m)) = true := by
  decide

/-- MpuDataCheck: what the cache instructions need, each of the three. -/
theorem witness_mpuCacheOp :
    [CacheOpPerm.none, .read, .write].all (fun q =>
      let s := { mpuState true 2#3 0#2 with cfg := { mpuCfg with mpuCacheOpPerm := q } }
      s.mpuOn && !s.cfg.mmu && s.cfg.mpuCacheOpPerm == q && s.dregions.all (fun g => regionMisaligned s.cfg g == false)) = true := by
  decide

/-- The boundary is quiet. -/
theorem quiet_reset : State.reset.Quiet := ⟨⟨rfl, rfl, rfl, rfl, rfl⟩, rfl, rfl⟩

/-- FetchExceptions with an MMU: a kernel address in user mode; a page with no entry; a page without execute permission; a page that
more than one entry matches. -/
theorem witness_fetchMmu :
    (let s := { userMmu with pc := 0x80000000#32 }
     s.Quiet ∧ s.SetImplemented ∧ s.PcAligned ∧ s.cfg.ecc = false ∧ stU s.status = true ∧ bit s.pc 31 = true)
    ∧ (let s := { userMmu with pc := 0x7FFFFFFC#32 }
       s.Quiet ∧ s.SetImplemented ∧ s.PcAligned ∧ (stU s.status && bit s.pc 31) = false
       ∧ s.tlbFinds (s.pc.extractLsb' 12 20) = [])
    ∧ (let s := { mmuStart [] 0#32 (entry true true false) with pc := 0x00400000#32 }
       s.Quiet ∧ s.SetImplemented ∧ s.PcAligned
       ∧ s.tlbFinds (s.pc.extractLsb' 12 20) = [entry true true false])
    ∧ (let s := { userMmu with pc := 0#32 }
       s.Quiet ∧ s.SetImplemented ∧ s.PcAligned ∧ (stU s.status && bit s.pc 31) = false
       ∧ 2 ≤ (s.tlbFinds (s.pc.extractLsb' 12 20)).length) :=
  ⟨⟨⟨⟨rfl, rfl, rfl, rfl, rfl⟩, rfl, rfl⟩, by unfold State.SetImplemented; decide, rfl, rfl, rfl, rfl⟩,
    ⟨⟨⟨rfl, rfl, rfl, rfl, rfl⟩, rfl, rfl⟩, by unfold State.SetImplemented; decide, rfl, rfl, by decide⟩,
    ⟨⟨⟨rfl, rfl, rfl, rfl, rfl⟩, rfl, rfl⟩, by unfold State.SetImplemented; decide, rfl, by decide⟩,
    ⟨⟨⟨rfl, rfl, rfl, rfl, rfl⟩, rfl, rfl⟩, by unfold State.SetImplemented; decide, rfl, rfl, by decide⟩⟩

/-- FetchExceptions with an MPU: a first region that is supervisor-only in user mode, one that grants nothing before one that does,
no region, an address outside the instruction address width, a first region with a reserved permission. -/
theorem witness_fetchMpu :
    let st (user : Bool) (perm : BitVec 3) (pc : Word) : State :=
      { mpuState user 0#3 0#2 with
        pc := pc,
        iregions := [{ base := 0x20#24, lim := 0xFFFFF0#24, mt := 0#2, perm := perm },
                     { base := 0x20#24, lim := 0xFFFFE0#24, mt := 0#2, perm := 2#3 }] }
    [(true, 1#3, 0x2000#32, some 1#3), (false, 0#3, 0x2FFC#32, some 0#3), (false, 0#3, 0x4000#32, none),
      (false, 2#3, 0x80000000#32, none), (false, 3#3, 0x2000#32, some 3#3), (true, 7#3, 0x2FFC#32, some 7#3)].all (fun q =>
      let s := st q.1 q.2.1 q.2.2.1
      !s.cfg.mmu && s.mpuOn && !s.cfg.ecc && s.iregions.all (fun g => regionMisaligned s.cfg g == false)
        && (s.iregions.find? (fun g => regionMatches s.cfg g s.pc.toNat)).map (·.perm) == q.2.2.2
        && decide (s.crs ≤ s.cfg.shadowSets ∧ field s.pc 0 2 = 0#2)) = true
    ∧ (st true 1#3 0x2000#32).Quiet ∧ 2 ^ (st false 2#3 0x80000000#32).cfg.iaddrWidth ≤ (0x80000000#32).toNat
    ∧ (st true 7#3 0x2FFC#32).pc.toNat < 2 ^ (st true 7#3 0x2FFC#32).cfg.iaddrWidth := by
  exact ⟨by decide, ⟨⟨rfl, rfl, rfl, rfl, rfl⟩, rfl, rfl⟩, by decide, by decide⟩

/-- TlbTranslation: what can stop an aligned load, a store, `flushda` or `initda` of a user that may use the address: a page with no
entry, and, once translated, an error of a data tightly-coupled memory and of a tag of the data cache. -/
theorem witness_accessStops :
    (let s := withRegs (State.resetOf { mmuCfg with hasEcc := true }) [(5#5, 0x7FFFFFFC#32)]
     s.UserMay (s.effAddr 5#5 0#16) ∧ (s.effAddr 5#5 0#16).toNat % 4 = 0 ∧ s.cfg.initdaImplemented = true
     ∧ ∀ kind, ∃ r, translateData (s.effAddr 5#5 0#16) kind s = .stop r)
    ∧ (let s := { State.resetOf { eccCfg with dtcm := [{ base := 0x3000, size := 64 }] } with
         config := 0xC#32, tcmEcc := [(0xC00, .double)] }
       s.UserMay 0x3000#32 ∧ (∃ c s1, translateData 0x3000#32 .load s = .ok (0x3000, c) s1)
       ∧ ∀ io c, ∃ r, physRead 0x3000#32 io c 0x3000 4 s = .stop r)
    ∧ (let s := { State.resetOf { cacheCfg with hasEcc := true } with
         config := 0xC#32,
         dcache := { CacheLine.invalid with valid := true, line := 0x100, tagEcc := .double } :: List.replicate 15 .invalid }
       s.UserMay 0x2000#32 ∧ (∀ kind, ∃ s1, translateData 0x2000#32 kind s = .ok (0x2000, true) s1)
       ∧ (∃ r, physRead 0x2000#32 false true 0x2000 4 s = .stop r)
       ∧ (∃ r, physWrite 0x2000#32 false true 0x2000 [1#8] s = .stop r)
       ∧ (∃ r, dcacheFlushAddr 0x2000#32 0x2000 s = .stop r) ∧ ∃ r, dcacheInitAddr 0x2000#32 0x2000 s = .stop r) :=
  ⟨⟨rfl, by decide, rfl, fun kind => ⟨_, rfl⟩⟩, ⟨rfl, ⟨_, _, rfl⟩, fun _ _ => ⟨_, rfl⟩⟩,
    ⟨rfl, fun kind => ⟨_, rfl⟩, ⟨_, rfl⟩, ⟨_, rfl⟩, ⟨_, rfl⟩, ⟨_, rfl⟩⟩⟩

/-- A data cache whose line 0 (of 16) holds 0x2000, dirty. -/
def cached : State :=
  let s := State.resetOf cacheCfg
  { s with dcache := { CacheLine.invalid with valid := true, dirty := true, stored := true, line := 0x100 } :: s.dcache.tail }

theorem cached_linesWhole : cached.LinesWhole := by
  unfold State.LinesWhole
  decide

theorem cached_withRegs_linesWhole (rs : List (RegIdx × Word)) (h : (withRegs cached rs).icache = cached.icache)
    (h' : (withRegs cached rs).dcache = cached.dcache) : (withRegs cached rs).LinesWhole := by
  have hc := cached_linesWhole
  unfold State.LinesWhole at hc ⊢
  rw [h, h']
  exact hc

/-- CachedLoadResults, CachedStoreResults: a hit on the last word of the line, which the platform maps; a miss on the same index. -/
theorem witness_caches :
    (let s := withRegs cached [(5#5, 0x201C#32)]
     s.Ready ∧ s.mem.wf = true ∧ s.cfg.mmu = false ∧ s.mpuOn = false ∧ (s.effAddr 5#5 0#16).toNat % 4 = 0
     ∧ s.Caches (s.effAddr 5#5 0#16) .load 0x201C s ∧ s.Caches (s.effAddr 5#5 0#16) .store 0x201C s
     ∧ s.Hits (s.effAddr 5#5 0#16) 0x201C ∧ ∀ k, k < 4 → s.cfg.dataMapped (0x201C + k) = true)
    ∧ (let s := withRegs cached [(5#5, 0x4200#32)]
       s.Ready ∧ s.Caches (s.effAddr 5#5 0#16) .load 0x4200 s ∧ s.Caches (s.effAddr 5#5 0#16) .store 0x4200 s
       ∧ ¬ s.Hits (s.effAddr 5#5 0#16) 0x4200) :=
  ⟨⟨⟨rfl, by unfold State.SetImplemented; decide⟩, rfl, rfl, rfl, by decide,
      ⟨rfl, by decide, rfl, cached_withRegs_linesWhole _ rfl rfl, rfl, _, rfl, by decide, by decide⟩,
      ⟨rfl, by decide, rfl, cached_withRegs_linesWhole _ rfl rfl, rfl, _, rfl, by decide, by decide⟩,
      by unfold State.Hits; decide, by decide⟩,
    ⟨⟨rfl, by unfold State.SetImplemented; decide⟩,
      ⟨rfl, by decide, rfl, cached_withRegs_linesWhole _ rfl rfl, rfl, _, rfl, by decide, by decide⟩,
      ⟨rfl, by decide, rfl, cached_withRegs_linesWhole _ rfl rfl, rfl, _, rfl, by decide, by decide⟩,
      by unfold State.Hits; decide⟩⟩

/-- DataCacheInstructions: a hit for `flushda` and `initda`, supervisor mode, and a core without `initda`. -/
theorem witness_dataCacheInstructions :
    cached.mem.wf = true ∧ cached.LinesWhole ∧ cached.cfg.ecc = false ∧ stU cached.status = false
    ∧ cached.cfg.dcacheSize ≠ 0 ∧ cached.cfg.initdaImplemented = true ∧ cached.UserMay 0x201F#32
    ∧ translateData 0x201F#32 .flushda cached = .ok (0x201F, true) cached
    ∧ translateData 0x201F#32 .initda cached = .ok (0x201F, true) cached ∧ cached.Hits 0x201F#32 0x201F
    ∧ inTcm cached.cfg.dtcms 0x201F = false ∧ inTcm cached.cfg.itcms 0x201F = false
    ∧ uncheckedCfg.initdaImplemented = false :=
  ⟨rfl, cached_linesWhole, rfl, rfl, by decide, rfl, rfl, rfl, rfl, by unfold State.Hits; decide, rfl, rfl, rfl⟩

/-- InstructionCacheInstructions: with and without an instruction cache, in both modes. -/
theorem witness_instructionCacheInstructions :
    cached.Canonical ∧ cached.cfg.icacheSize ≠ 0 ∧ State.reset.Canonical ∧ State.reset.cfg.icacheSize = 0
    ∧ stU cached.status = false ∧ userMmu.Canonical ∧ stU userMmu.status = true := by
  unfold State.Canonical
  decide

/-- StepRunsDecoded: `add r6, r7, r8` fetched at 0x1000; a fetch that stops; a word that is not canonical. -/
theorem witness_stepRunsDecoded :
    (let s := start [] 0x3A0D883A#32
     let s1 := { s with eccBus := 0#30 }
     s.Quiet ∧ s.SetImplemented ∧ fetch s1 = .ok { word := 0x3A0D883A#32, late := none } s1
     ∧ decode (bytesOfWord 0x3A0D883A#32) = .ok (.add 6#5 7#5 8#5, [])
     ∧ readSources (sources (.add 6#5 7#5 8#5) s1) s1 = .ok () s1
     ∧ (canonical (.add 6#5 7#5 8#5) 0x3A0D883A#32 || s1.cfg.nonCanonicalRuns) = true)
    ∧ (∃ r, fetch { userMmu with pc := 0x80000000#32 } = .stop r)
    ∧ (canonical .ret 0x0000283A#32 || { Config.default with nonCanonicalRuns := false }.nonCanonicalRuns) = false :=
  ⟨⟨⟨⟨rfl, rfl, rfl, rfl, rfl⟩, rfl, rfl⟩, by unfold State.SetImplemented; decide, rfl, rfl, rfl, rfl⟩, ⟨_, rfl⟩,
    by decide⟩

/-- A core with ECC whose instruction tightly-coupled memory holds `w` at 0x1000, with a 2-bit error, `pc` there; `m` marks r7. -/
def eccFetched (w : Word) (m : EccMark) : State :=
  { State.resetOf { eccCfg with itcm := [{ base := 0x1000, size := 64 }] } with
    pc := 0x1000#32, mem := put 0x1000 w [], config := 0xC#32, tcmEcc := [(0x400, .double)],
    rfEcc := if m = .none then [] else [(7, m)] }

/-- StepRunsDecoded, EccRegisterFile, EccFetchAndTcm: a late exception of the fetch with sources that read, with a source that stops,
and of a word that no instruction has. -/
theorem witness_lateException :
    [(0x3A0D883A#32, EccMark.none, true), (0x3A0D883A#32, .double, true), (0x0001F83A#32, .none, false)].all (fun q =>
      let s := eccFetched q.1 q.2.1
      decide (s.crs ≤ s.cfg.shadowSets ∧ s.cfg.isF = true) &&
      match fetch s with
      | .ok f s1 => f.late == some (.eccFetch 0) && f.word == q.1 &&
        match decode (bytesOfWord f.word), readSources (sources (.add 6#5 7#5 8#5) s1) s1 with
        | .ok (i, _), .ok _ _ => q.2.2 && i == .add 6#5 7#5 8#5 && q.2.1 == .none
        | .ok (i, _), .stop _ => q.2.2 && i == .add 6#5 7#5 8#5 && q.2.1 == .double
        | .error _, _ => !q.2.2
      | .stop _ => false) = true
    ∧ (eccFetched 0x3A0D883A#32 .none).Quiet ∧ (eccFetched 0x3A0D883A#32 .double).Quiet ∧ (eccFetched 0x0001F83A#32 .none).Quiet :=
  ⟨by decide, ⟨⟨rfl, rfl, rfl, rfl, rfl⟩, rfl, rfl⟩, ⟨⟨rfl, rfl, rfl, rfl, rfl⟩, rfl, rfl⟩,
    ⟨⟨rfl, rfl, rfl, rfl, rfl⟩, rfl, rfl⟩⟩

/-- 60_exceptions.md R441 ranks 6 and 8: the causes that those steps record, ITCM0_UE signalled with cause 19 alone (R496). -/
theorem test_late_causes :
    [EccMark.none, .double].map (fun m => stepped (eccFetched 0x3A0D883A#32 m) (fun t => (field t.exception 2 5, t.eccBus))) =
      [some (19#5, 0x40#30), some (20#5, 0x4#30)] := by
  decide

/-- StepRunsBytesAtPc: the last word of the implemented instruction space. -/
theorem witness_stepRunsBytesAtPc :
    let s := { State.reset with pc := 0x7FFFFFFC#32, mem := put 0x7FFFFFFC 0x3A0D883A#32 [] }
    s.Quiet ∧ s.SetImplemented ∧ s.PcAligned ∧ s.cfg.mmu = false ∧ s.mpuOn = false ∧ s.cfg.ecc = false ∧ s.cfg.icacheSize = 0
    ∧ (∀ w, ¬ s.MayRun s.pc s.pc.toNat w) ∧ (∀ k, k < 4 → s.cfg.fetchRam (s.pc.toNat + k) = true)
    ∧ decode [s.mem.read s.pc.toNat, s.mem.read (s.pc.toNat + 1), s.mem.read (s.pc.toNat + 2), s.mem.read (s.pc.toNat + 3)] =
      .ok (.add 6#5 7#5 8#5, []) ∧ s.cfg.nonCanonicalRuns = true :=
  ⟨⟨⟨rfl, rfl, rfl, rfl, rfl⟩, rfl, rfl⟩, by unfold State.SetImplemented; decide, rfl, rfl, rfl, rfl, rfl,
    fun w h => absurd ((mem_otherWords _ _ _ w).2 h) (List.not_mem_nil (a := w)), by decide, by rfl, rfl⟩

/-- Both caches, 0x1000 to 0x101F in line 0 of each, an old word of 0x1000 in the pipeline and one that the instruction cache may
have read ahead, and a word stored there and not written back. -/
def prefetching : State :=
  let s := State.resetOf cacheCfg
  let l := { CacheLine.invalid with valid := true, line := 0x80 }
  { s with pc := 0x1000#32, icache := l :: s.icache.tail,
           dcache := { l with dirty := true, stored := true, data := 1#8 :: l.data.tail } :: s.dcache.tail,
           prefetched := [(0x400, [(0, 0x3A0DC83A#32)])], readAhead := [(0x400, [(0, 0x3A0D883A#32)])] }

/-- FetchedWord: a hit of a word with others that may run, a miss of the same line, a core without an instruction cache and a
tightly-coupled memory. -/
theorem witness_fetchedWord :
    (prefetching.PcAligned ∧ prefetching.cfg.ecc = false ∧ prefetching.cfg.wf = true ∧ prefetching.Canonical
      ∧ prefetching.LinesWhole ∧ prefetching.icache.length = prefetching.cfg.icacheSize / 32 ∧ prefetching.cfg.icacheSize ≠ 0
      ∧ tcmNumber prefetching.cfg.itcms 0x1000 = none ∧ inTcm prefetching.cfg.dtcms 0x1000 = false)
    ∧ ((prefetching.iline 0).valid = true ∧ (prefetching.iline 0).line = 0x1000 / 32
      ∧ (prefetching.iline 0).line ≠ 0x1200 / 32)
    ∧ prefetching.otherWords 0x1000#32 0x1000 = [0x3A0DC83A#32, 0x3A0D883A#32, 0#32, 1#32]
    ∧ prefetching.otherWords 0x1200#32 0x1200 = []
    ∧ State.reset.cfg.icacheSize = 0 ∧ State.reset.Canonical ∧ State.reset.cfg.wf = true ∧ State.reset.LinesWhole
    ∧ tcmNumber { cacheCfg with itcm := [{ base := 0x1000, size := 64 }] }.itcms 0x1000 = some 0 := by
  unfold State.PcAligned State.Canonical State.LinesWhole
  decide

/-- FetchedWord: the addresses it is said for: a page that may be executed, the kernel partition, no MPU, and regions of an MPU
that grant execution in supervisor mode. -/
theorem witness_fetchAddresses :
    (let s := { mmuStart [] 0#32 (entry false false true) with pc := 0x00400FFC#32 }
     s.PcAligned ∧ s.Canonical ∧ s.LinesWhole ∧ s.cfg.mmu = true ∧ s.cfg.ecc = false ∧ s.cfg.wf = true
     ∧ (stU s.status && bit s.pc 31) = false
     ∧ s.tlbFinds (s.pc.extractLsb' 12 20) = [entry false false true])
    ∧ (let s := { State.resetOf mmuCfg with pc := 0xFFFFFFFC#32 }
       s.PcAligned ∧ s.Canonical ∧ s.LinesWhole ∧ s.cfg.mmu = true ∧ stU s.status = false ∧ 0xC0000000 ≤ s.pc.toNat)
    ∧ (let s := { mpuState false 0#3 0#2 with pc := 0x2FFC#32 }
       s.PcAligned ∧ s.Canonical ∧ s.LinesWhole ∧ s.cfg.mmu = false ∧ s.mpuOn = true ∧ s.cfg.wf = true
       ∧ (∀ g ∈ s.iregions, regionMisaligned s.cfg g = false) ∧ s.pc.toNat < 2 ^ s.cfg.iaddrWidth
       ∧ (s.iregions.find? (fun g => regionMatches s.cfg g s.pc.toNat)).map (·.perm) = some 1#3) := by
  unfold State.PcAligned State.Canonical State.LinesWhole
  decide

/-- 20_memory.md R133, U8: after `stwio r6, 0(r5)` and `stwio r7, 0(r5)` over the word at 0x1000 the instruction cache may still hold
each of the words that they replaced, on a core with a data cache alone the pipeline, on a core without caches nothing. -/
theorem test_store_to_code :
    [cacheCfg, { cacheCfg with icacheBytes := 0 }, Config.default].map (fun c =>
      match exec (.stwio 6#5 5#5 0#16) (withRegs { State.resetOf c with mem := put 0x1000 0x3A0D883A#32 [] }
          [(5#5, 0x1000#32), (6#5, 1#32)]) with
      | .next t =>
        match exec (.stwio 7#5 5#5 0#16) t with
        | .next u => (u.prefetchedAt 0 0x400, u.aheadAt 0 0x400)
        | _ => ([], [])
      | _ => ([], [])) =
    [([], [1#32, 0x3A0D883A#32]), ([1#32, 0x3A0D883A#32], []), ([], [])] := by
  decide

/-- 20_memory.md R133: of an instruction modified by `stwio`, `flushp` alone leaves the old word to run, `flushi` alone as well, and
`flushi` and then `flushp` the new one only. -/
theorem test_flush_sequence :
    let flushed (is : List Instr) : State := is.foldl (fun s i => match exec i s with | .next t => t | _ => s)
      (withRegs { State.resetOf cacheCfg with mem := put 0x1000 0x3A0D883A#32 [] } [(5#5, 0x1000#32), (6#5, 1#32)])
    [[.stwio 6#5 5#5 0#16, .flushp], [.stwio 6#5 5#5 0#16, .flushi 5#5], [.stwio 6#5 5#5 0#16, .flushi 5#5, .flushp]].map
      (fun is => (flushed is).otherWords 0x1000#32 0x1000) = [[0x3A0D883A#32, 1#32], [0x3A0D883A#32], []] := by
  decide

/-- 20_memory.md R133, R136: with an instruction cache of 8 KB behind an MMU, where a word may be at two indices, `flushi` of one and
`flushp` leave it no old word there, whatever is flushed later at the other index, by which it may still run. -/
theorem test_flush_colours :
    let c : Config := { mmuCfg with icacheBytes := 8192 }
    let flushed (s : State) (is : List Instr) : State := is.foldl (fun s i => match exec i s with | .next t => t | _ => s) s
    let old (s : State) (i : Nat) : List Word := s.prefetchedAt i 0x400 ++ s.aheadAt i 0x400
    let s0 := { State.resetOf c with mem := put 0x1000 0x3A0D883A#32 [], icache := [], gpr :=
      (((State.resetOf c).gpr.set 5 0xE0001000#32).set 6 1#32).set 7 0xC0001000#32 |>.set 8 0xC0000000#32 }
    let s := flushed s0 [.stwio 6#5 5#5 0#16, .flushi 7#5, .flushp, .flushi 8#5]
    (old s 0 = [0x3A0D883A#32] ∧ old s 128 = []) ∧ s.cfg.ihomes 0x400 = [0, 128]
    ∧ (fetchIndex s.cfg 0xC0001000#32 0x1000, fetchIndex s.cfg 0xC0000000#32 0x1000) = (128, 0) := by
  decide

/-- 70_reset_and_hazards.md R534: `stw` of the data master to a word of an instruction tightly-coupled memory initialises it. -/
theorem test_store_initialises_tcm :
    (match exec (.stw 6#5 5#5 0#16) (withRegs (eccFetched 0#32 .none) [(5#5, 0x1000#32), (6#5, 0x3A0D883A#32)]) with
      | .next t => some (t.tcmEcc, t.mem.read 0x1000)
      | _ => none) = some ([], 0x3A#8) := by
  decide

/-- EventOrder: one state for each event, every later event pending as well. -/
theorem witness_eventOrder :
    let all := { State.resetOf { mmuCfg with hasEcc := true } with
      resetPin := true, hwBreak := true, cpuResetRequest := true, wbError := true, config := 0xC#32, ienable := 1#32,
      irq := 1#32, status := 0x00800007#32 }
    let ok := { all with resetPin := false, status := 0x00800001#32 }
    all.resetPin = true
    ∧ (let s := { all with resetPin := false }
       s.resetPin = false ∧ (s.cfg.hasEh && s.cfg.hasU && stEh s.status && stU s.status) = true)
    ∧ ((ok.cfg.hasEh && ok.cfg.hasU && stEh ok.status && stU ok.status) = false ∧ ok.cfg.hasDebug = true
       ∧ ok.debugMode = false ∧ ok.hwBreak = true)
    ∧ (let s := { ok with hwBreak := false }
       s.breakPending = false ∧ s.cfg.hasCpuResetRequest = true ∧ s.cpuResetRequest = true ∧ s.debugMode = false)
    ∧ (let s := { ok with hwBreak := false, cpuResetRequest := false }
       s.breakPending = false ∧ s.cpuResetPending = false ∧ s.writebackPending = true)
    ∧ (let s := { ok with hwBreak := false, cpuResetRequest := false, wbError := false }
       s.writebackPending = false ∧ s.cfg.eic = false ∧ stPie s.status = true ∧ bit s.irq 0 = true ∧ bit s.ienable 0 = true)
    ∧ (let s := { ok with hwBreak := false, cpuResetRequest := false, wbError := false, irq := 0#32 }
       s.writebackPending = false ∧ s.internalPending = false ∧ s.externalPending = false) := by
  decide

/-- BranchResults: equal operands, and operands that the signed and the unsigned order compare differently; an aligned
and a misaligned target. -/
theorem witness_branches :
    let s := withRegs State.reset [(1#5, 0xFFFFFFFF#32), (2#5, 1#32)]
    s.reg 1#5 = s.reg 1#5 ∧ s.reg 1#5 ≠ s.reg 2#5 ∧ (s.reg 1#5).toInt < (s.reg 2#5).toInt
    ∧ (s.reg 1#5).toNat ≥ (s.reg 2#5).toNat ∧ (s.reg 2#5).toInt ≥ (s.reg 1#5).toInt ∧ (s.reg 2#5).toNat < (s.reg 1#5).toNat
    ∧ (s.pc + 4#32 + (0x8000#16).signExtend 32).toNat % 4 = 0 ∧ (s.pc + 4#32 + (2#16).signExtend 32).toNat % 4 ≠ 0
    ∧ s.cfg.misalignedChecked = true ∧ uncheckedCfg.misalignedChecked = false := by
  decide

/-- CallsAndJumps: an aligned and a misaligned target, the check on and off. -/
theorem witness_jumps :
    [Config.default, uncheckedCfg].all (fun c =>
      let s := withRegs (State.resetOf c) [(1#5, 0xFFFFFFFC#32), (2#5, 1#32), (31#5, 2#32)]
      decide ((s.reg 1#5).toNat % 4 = 0 ∧ (s.reg 2#5).toNat % 4 ≠ 0 ∧ (s.reg 31#5).toNat % 4 ≠ 0
        ∧ s.shadow.length = s.cfg.shadowSets ∧ s.crs ≤ s.cfg.shadowSets)) = true := by
  decide

/-- TrapResult and the statements about exception entry: status words with EH 0 and 1, without and with an MMU. -/
theorem witness_statusImplemented :
    State.reset.StatusImplemented ∧ stEh State.reset.status = false ∧ State.reset.cfg.isF = true
    ∧ economyCfg.isF = false
    ∧ State.StatusImplemented { State.resetOf mmuCfg with status := 0x00800005#32 }
    ∧ stEh (0x00800005#32) = true ∧ (State.resetOf eicCfg).StatusImplemented := by
  unfold State.StatusImplemented
  decide

/-- ReturnResults: supervisor mode in the normal set and in a shadow set. -/
theorem witness_returns :
    stU State.reset.status = false ∧ State.reset.crs = 0
    ∧ (let s := { State.resetOf eicCfg with status := setCrs 2#6 0x00800000#32 }
       stU s.status = false ∧ s.crs ≠ 0) := by
  decide

/-- InternalInterrupts: requested on the last input, and masked. -/
theorem witness_internalInterrupts :
    (let s := { State.resetOf mmuCfg with status := 0x00800001#32, irq := 0x80000000#32, ienable := 0x80000000#32 }
     s.Unbroken ∧ s.cfg.eic = false ∧ s.StatusImplemented ∧ stPie s.status = true ∧ stEh s.status = false
     ∧ bit s.irq 31 = true ∧ bit s.ienable 31 = true)
    ∧ (State.reset.Unbroken ∧ State.reset.cfg.eic = false ∧ stPie State.reset.status = false) :=
  ⟨⟨⟨rfl, rfl, rfl, rfl, rfl⟩, rfl, ⟨rfl, rfl, rfl⟩, rfl, rfl, rfl, rfl⟩, ⟨⟨rfl, rfl, rfl, rfl, rfl⟩, rfl, rfl⟩⟩

/-- An EIC that requests the register set `rrs`. -/
def requested (rrs ril : BitVec 6) (rnmi : Bool) : State :=
  { State.resetOf eicCfg with status := 0x00800001#32, eic := { rha := 0x8000#32, rrs := rrs, ril := ril, rnmi := rnmi } }

/-- ExternalInterrupts: the normal set, the last shadow set, a set that does not exist, a nonmaskable request, none. -/
theorem witness_externalInterrupts :
    [(requested 0#6 1#6 false), (requested 2#6 63#6 false), (requested 3#6 1#6 false), (requested 1#6 1#6 true)].all (fun s =>
      s.externalPending && s.cfg.eic && decide (s.shadow.length = s.cfg.shadowSets) && !stEh s.status) = true
    ∧ (requested 2#6 1#6 false).ExternalTaken ∧ (requested 1#6 1#6 true).ExternalTaken
    ∧ (requested 3#6 1#6 false).ExternalTaken ∧ (requested 3#6 1#6 false).cfg.shadowSets < 3
    ∧ ¬ (requested 1#6 0#6 false).ExternalTaken ∧ (requested 2#6 1#6 false).StatusImplemented
    ∧ (requested 2#6 1#6 false).Unbroken := by
  unfold State.ExternalTaken State.StatusImplemented State.Unbroken
  decide

/-- NmiModeEnteredOnlyByNmi: a step that enters NMI mode. -/
theorem witness_nmi : stNmi (requested 1#6 1#6 true).status = false
    ∧ stepped (requested 1#6 1#6 true) (fun t => (stNmi t.status, t.pc)) = some (true, 0x8000#32) := by decide

/-- ResetStatus and ResetEntry: the `reset` input, and `cpu_resetrequest` alone. -/
theorem witness_reset :
    (∃ t, step { State.reset with resetPin := true } = .next t)
    ∧ (let s := { State.reset with cpuResetRequest := true }
       s.resetPin = false ∧ (s.cfg.hasEh && s.cfg.hasU && stEh s.status && stU s.status) = false ∧ s.breakPending = false
       ∧ s.cfg.hasCpuResetRequest = true ∧ s.debugMode = false) :=
  ⟨⟨_, rfl⟩, rfl, rfl, rfl, rfl, rfl⟩

/-- CpuidConstant: a step, and supervisor mode. -/
theorem witness_cpuid : (∃ t, step (start [] 0x3A0D883A#32) = .next t) ∧ stU State.reset.status = false := ⟨⟨_, rfl⟩, rfl⟩

/-- RdctlResults, WrctlResults: the machine after reset, without and with each optional unit. -/
theorem witness_controlRegisters :
    [Config.default, mmuCfg, mpuCfg, eicCfg, eccCfg, economyCfg].all (fun c =>
      let s := State.resetOf c
      decide (s.shadow.length = s.cfg.shadowSets ∧ s.crs ≤ s.cfg.shadowSets ∧ stU s.status = false
        ∧ c.normStatus s.status = s.status ∧ c.normStatus s.estatus = s.estatus ∧ c.normStatus s.bstatus = s.bstatus
        ∧ s.mpubase &&& 0xC0#32 = 0#32 ∧ s.exception &&& 0x7FFFFF83#32 = 0#32)) = true
    ∧ State.reset.SpecialImplemented
    ∧ (let s := { State.resetOf eccCfg with eccinjOld := 0x00300040#32 }
       s.SpecialImplemented ∧ s.cfg.ecc = true ∧ s.eccinjOld ≠ 0#32 ∧ s.shadow.length = s.cfg.shadowSets) := by
  unfold State.SpecialImplemented
  decide

/-- TlbWriteAndRead: WE 0 and 1, RD 0 and 1, the last way, an entry there. -/
theorem witness_tlbWrite :
    let c := { mmuCfg with tlbEntries := 32 }
    let s := withRegs { State.resetOf c with tlbmisc := 0x00F40010#32, pteaddr := 0x003FFFFC#32 } [(7#5, 0x00F80000#32)]
    stU s.status = false ∧ s.cfg.mmu = true ∧ s.cfg.ecc = false ∧ s.cfg.wf = true ∧ s.tlb.length = s.cfg.tlbEntries
    ∧ s.cfg.tlbWays ≤ s.cfg.tlbEntries ∧ bit s.tlbmisc 18 = true ∧ bit (0x00F00010#32) 18 = false
    ∧ (s.tlbmisc.extractLsb' 20 4).toNat < s.cfg.tlbWays ∧ bit (s.reg 7#5) 19 = true ∧ bit (s.reg 0#5) 19 = false
    ∧ s.tlb[1 * 16 + 15]? = some TlbEntry.zero := by
  decide

/-- TlbWriteAndRead, EccTlb: three ways, and a WAY of 3 that names none. -/
theorem witness_wayWithoutEntry :
    [false, true].all (fun e =>
      let s := withRegs { State.resetOf { mmuCfg with hasEcc := e, tlbEntries := 48, tlbWays := 3 } with
        tlbmisc := 0x00340010#32, config := 4#32 } [(7#5, 0x00380000#32)]
      decide (stU s.status = false ∧ s.cfg.mmu = true ∧ s.cfg.ecc = e ∧ s.cfg.wf = true ∧ s.tlb.length = s.cfg.tlbEntries
        ∧ s.cfg.tlbWays ≤ s.cfg.tlbEntries ∧ bit s.tlbmisc 18 = true ∧ s.cfg.tlbWays ≤ (s.tlbmisc.extractLsb' 20 4).toNat
        ∧ bit (s.reg 7#5) 19 = true
        ∧ s.cfg.tlbWays ≤ ((s.reg 7#5).extractLsb' 20 4).toNat % 2 ^ Nat.clog 2 s.cfg.tlbWays)) = true := by
  decide

/-- MpuRegionWriteAndRead: the four values of RD and WR, the last data region. -/
theorem witness_mpuWrite :
    let s := withRegs { mpuState false 4#3 0#2 with mpubase := 0x2003#32 } [(1#5, 1#32), (2#5, 2#32), (3#5, 3#32)]
    stU s.status = false ∧ s.cfg.mpu = true ∧ s.cfg.wf = true ∧ bit s.mpubase 0 = true
    ∧ (bit (s.reg 0#5) 0 = false ∧ bit (s.reg 0#5) 1 = false) ∧ (bit (s.reg 1#5) 0 = true ∧ bit (s.reg 1#5) 1 = false)
    ∧ (bit (s.reg 2#5) 0 = false ∧ bit (s.reg 2#5) 1 = true) ∧ (bit (s.reg 3#5) 0 = true ∧ bit (s.reg 3#5) 1 = true)
    ∧ s.dregions[(s.mpubase.extractLsb' 1 5).toNat]? =
      some { base := 0x30#24, lim := 0xFFFFF0#24, mt := 0#2, perm := 6#3 } := by
  decide

/-- MpuRegionWriteAndRead: an INDEX that names no region. -/
theorem witness_mpuNoRegion :
    let s := withRegs { mpuState false 4#3 0#2 with mpubase := 0x2007#32 } [(2#5, 2#32)]
    stU s.status = false ∧ s.cfg.mpu = true ∧ s.cfg.wf = true ∧ bit s.mpubase 0 = true ∧ bit (s.reg 2#5) 0 = false
    ∧ bit (s.reg 2#5) 1 = true ∧ s.dregions[(s.mpubase.extractLsb' 1 5).toNat]? = none := by
  decide

/-- UserModeTraps: user mode, with shadow sets. -/
theorem witness_supervisorOnly :
    let c := { mmuCfg with numShadow := 63 }
    stU { State.resetOf c with status := 0x00800002#32 }.status = true ∧ c.shadowSets ≠ 0 := by
  decide

/-- PreviousSetResults: no shadow sets in user mode, the check on, and in supervisor mode, on and off; PRS at 0, at the last set
and beyond it. -/
theorem witness_previousSet :
    (userMmu.Ready ∧ stU userMmu.status = true ∧ userMmu.cfg.shadowSets = 0 ∧ userMmu.cfg.illegalChecked = true)
    ∧ ((State.resetOf uncheckedCfg).Ready ∧ uncheckedCfg.shadowSets = 0 ∧ uncheckedCfg.illegalChecked = false
      ∧ stU (State.resetOf uncheckedCfg).status = false ∧ stU State.reset.status = false ∧ State.reset.cfg.shadowSets = 0)
    ∧ (let s := { State.resetOf uncheckedCfg with status := 0x00800002#32 }
       s.Ready ∧ stU s.status = true ∧ s.cfg.shadowSets = 0 ∧ s.cfg.illegalChecked = false)
    ∧ [0#6, 2#6, 3#6].all (fun p =>
      let s := { State.resetOf eicCfg with status := setPrs p 0x00800000#32 }
      decide (s.shadow.length = s.cfg.shadowSets ∧ s.crs ≤ s.cfg.shadowSets ∧ stU s.status = false ∧ stPrs s.status = p
        ∧ s.cfg.shadowSets = 2)) = true := by
  unfold State.Ready State.SetImplemented
  decide

/-- CustomResult: an exec that writes rC, and one that writes no register. -/
theorem witness_custom :
    (∃ t, exec (.custom 255#8 true true true 6#5 7#5 8#5) State.reset = .next t)
    ∧ exec (.custom 0#8 true true false 6#5 7#5 8#5) State.reset =
      .next { State.reset with
        pc := 4#32,
        customState := Config.customNext
          { n := 0#8, valA := State.reset.reg 7#5, valB := State.reset.reg 8#5, a := 7#5, b := 8#5, c := 6#5, readra := true,
            readrb := true, writerc := false, logic := 0 } } :=
  ⟨⟨_, rfl⟩, rfl⟩

/-- EccRegisterFile: a register without an error, with a 1-bit and with a 2-bit error, register 0 of a shadow set, ECCEN and ECCEXE
on and off, and the three injections. -/
theorem witness_eccRegisterFile :
    [0#32, 4#32, 0xC#32].all (fun c =>
      let s := { State.resetOf { eccCfg with numShadow := 1 } with config := c, rfEcc := [(30, .single 4), (32, .double)] }
      decide (s.cfg.ecc = true ∧ sparseWf EccMark.none s.rfEcc = true ∧ s.mem.wf = true ∧ 1 ≤ s.shadow.length
        ∧ s.tcmEcc = [] ∧ s.prefetched = [] ∧ s.readAhead = [] ∧ s.gprMark 0 1#5 = .none ∧ s.gprMark 0 30#5 = .single 4
        ∧ s.gprMark 1 0#5 = .double)) = true
    ∧ bit (4#32) 2 = true ∧ bit (4#32) 3 = false ∧ bit (0xC#32) 3 = true
    ∧ field (0#32) 0 2 = 0#2 ∧ field (1#32) 0 2 = 1#2 ∧ field (2#32) 0 2 = 2#2 := by
  decide

/-- EccRegisterFile: an instruction with two sources, the second of which has a 2-bit error. -/
theorem witness_eccSource :
    let s := { State.resetOf eccCfg with config := 0xC#32, rfEcc := [(8, .double)] }
    let i : Instr := .add 6#5 7#5 8#5
    s.cfg.ecc = true ∧ s.Canonical ∧ bit s.config 2 = true ∧ bit s.config 3 = true ∧ s.gprMark 0 8#5 = .double
    ∧ (0, 8#5) ∈ sources i s ∧ ∀ q ∈ sources i s, q ≠ (0, 8#5) → s.gprMark q.1 q.2 = .none := by
  unfold State.Canonical
  decide

/-- A core with ECC, an MPU that is off and no multiplier, in user mode, `w` at `pc`, `config` as given, r4 marked `m`. -/
def eccUser (w config : Word) (m : EccMark) : State :=
  { State.resetOf { eccCfg with hasMpu := true, hwMul := .none } with
    pc := 0x1000#32, mem := put 0x1000 w [], status := 0x00800002#32, config := config, rfEcc := [(4, m)] }

/-- 46_other_control.md R391: `wrctl ienable, r4` in user mode raises cause 10 before r4 is read, and 60_exceptions.md R441 ranks only
a 2-bit error that raises, cause 20, above; 41_arith_logic.md R293: the same of `mul r6, r4, r4`, cause 4. -/
theorem test_ecc_decode_traps :
    [(0x200170FA#32, 10#5), (0x210D383A#32, 4#5)].all (fun q =>
      [(0xC#32, EccMark.single 4, q.2, 0#30), (4#32, .double, q.2, 0#30), (0xC#32, .double, 20#5, 4#30)].all (fun r =>
        stepped (eccUser q.1 r.1 r.2.1) (fun t => (field t.exception 2 5, t.eccBus, t.rfEcc, t.draws)) ==
          some (r.2.2.1, r.2.2.2, [(4, r.2.1)], 0))) = true := by
  decide

/-- StepRunsDecoded, EccRegisterFile: instructions that a check before any operand ends, with a source that the reading would change. -/
theorem witness_eccDecodeTraps :
    [(0x200170FA#32, (Instr.wrctl 3#5 4#5)), (0x210D383A#32, .mul 6#5 4#5 4#5)].all (fun q =>
      let s := eccUser q.1 0xC#32 (.single 4)
      decide (s.crs ≤ s.cfg.shadowSets ∧ s.resetPin = false ∧ s.breakPending = false ∧ s.cpuResetPending = false
        ∧ s.writebackPending = false ∧ s.internalPending = false ∧ s.externalPending = false ∧ stEh s.status = false
        ∧ stU s.status = true ∧ trapsAtDecode q.2 s = true ∧ s.cfg.hwMul = .none) &&
      match fetch s with
      | .ok f s1 => f.late == none && s1 == s && f.word == q.1 && canonical q.2 f.word &&
        match decode (bytesOfWord f.word), readSources (sources q.2 s1) s1 with
        | .ok (i, _), .ok _ s2 => i == q.2 && s2 != s1
        | _, _ => false
      | .stop _ => false) = true := by
  decide

/-- EccTlb: a line with a 2-bit error, one with a 1-bit error and a match, one with a 1-bit error and none; a corrupted entry that
software reads, and a good one; the three injections. -/
theorem witness_eccTlb :
    let one (m : EccMark) := { entry true true true with ecc := m }
    let st (m : EccMark) :=
      let s := State.resetOf { mmuCfg with hasEcc := true, tlbEntries := 32, tlbWays := 2 }
      withRegs { s with tlb := one m :: s.tlb.tail, config := 0xC#32, pteaddr := 0x1000#32, tlbmisc := 0x00040010#32 }
        [(7#5, 0x00080000#32)]
    [EccMark.none, .single 1, .double].all (fun m =>
      decide ((st m).cfg.mmu = true ∧ (st m).cfg.ecc = true ∧ bit (st m).config 2 = true ∧ bit (st m).config 3 = true
        ∧ (st m).cfg.wf = true ∧ (st m).tlb.length = (st m).cfg.tlbEntries ∧ (st m).cfg.tlbWays ≤ (st m).cfg.tlbEntries
        ∧ one m ∈ (st m).tlbWaysOf 0x00400#20 ∧ stU (st m).status = false ∧ bit ((st m).reg 7#5) 19 = true
        ∧ (st m).tlb[0]? = some (one m) ∧ bit (st m).tlbmisc 18 = true
        ∧ ((st m).tlbmisc.extractLsb' 20 4).toNat < (st m).cfg.tlbWays
        ∧ (st m).cfg.tlbEntries / (st m).cfg.tlbWays ≤ 2 ^ 18 ∧ 1 < 20 - Nat.log2 16)) = true
    ∧ (∀ e ∈ (st (.single 1)).tlbWaysOf 0x00400#20, e.ecc ≠ .double)
    ∧ ((st .double).tlbWaysOf 0x00400#20)[0]? = some (one .double) ∧ bit (4#32) 3 = false
    ∧ (∀ f ∈ ((st .double).tlbWaysOf 0x00400#20).tail, f.ecc = .none ∧ f.tag ≠ 0x00400 / 16)
    ∧ ((st (.single 1)).tlbSettled 0x00420#20).tlbFinds 0x00420#20 = [{ one .none with tag := 0x42 }]
    ∧ ((st (.single 1)).tlbSettled 0x00400#20).tlbFinds 0x00400#20 = []
    ∧ field (0#32) 10 2 = 0#2 ∧ field (0x400#32) 10 2 = 1#2 ∧ field (0x800#32) 10 2 = 2#2 := by
  decide

/-- A core with ECC and caches, line 0 of each holding 0x2000, the data line dirty or not, with the marks given. -/
def eccCached (dirty : Bool) (tag dat : EccMark) : State :=
  let s := State.resetOf { cacheCfg with hasEcc := true }
  let l := { CacheLine.invalid with valid := true, line := 0x100, tagEcc := tag, dataEcc := dat }
  { s with config := 0xC#32, dcache := { l with dirty := dirty } :: s.dcache.tail, icache := l :: s.icache.tail }

/-- EccDataCache, EccDataCacheStores: every combination of errors, ECCEXE on and off, the last word of the line and the word of
another line with the same index, the injections of the tag, the data and the victim buffer. -/
theorem witness_eccDataCache :
    [EccMark.none, .single 3, .double].all (fun tag => [EccMark.none, .single 255, .double].all fun dat => [true, false].all fun d =>
      let s := eccCached d tag dat
      decide (s.cfg.ecc = true ∧ bit s.config 2 = true ∧ bit s.config 3 = true ∧ bit (4#32) 3 = false ∧ s.cfg.wf = true
        ∧ s.mem.wf = true ∧ s.dcache.length = s.cfg.dcacheSize / 32 ∧ s.cfg.dcacheSize ≠ 0 ∧ 0x201C % 32 + 4 ≤ 32
        ∧ (∀ l ∈ s.dcache, l.data.length = 32) ∧ (∀ l ∈ s.icache, l.data.length = 32)
        ∧ (s.dline (s.dindex 0x201C#32)).valid = true ∧ (s.dline (s.dindex 0x201C#32)).tagEcc = tag
        ∧ (s.dline (s.dindex 0x201C#32)).dataEcc = dat ∧ (s.dline (s.dindex 0x201C#32)).dirty = d
        ∧ (s.dline (s.dindex 0x201C#32)).line = 0x201C / 32 ∧ s.cfg.tightlyCoupled 0x201C = false
        ∧ tcmNumber s.cfg.dtcms 0x201C = none ∧ usesDcache s.cfg false true 0x201C = true
        ∧ (s.dline (s.dindex 0x301C#32)).line ≠ 0x301C / 32 ∧ 0x201C % 32 / 4 = (0x201C % 32 + 4 - 1) / 4
        ∧ [0, 1, 2].map (fun k => (field (BitVec.ofNat 32 (k * 0x100140)) 6 2, field (BitVec.ofNat 32 (k * 0x100140)) 8 2,
          field (BitVec.ofNat 32 (k * 0x100140)) 20 2)) = [(0#2, 0#2, 0#2), (1#2, 1#2, 1#2), (2#2, 2#2, 2#2)])) = true
    ∧ ((State.resetOf { cacheCfg with hasEcc := true }).dline 0).valid = false ∧ bit (0#32) 2 = false := by
  decide

/-- 60_exceptions.md R491, R496: a store to 0x301C, whose line's tag reads 0x100 with its bit 3 wrong, puts the tag right, signals
DCTAG_RE and writes the line. -/
theorem test_store_ecc_tag :
    (match dcacheWrite 0x301C#32 0x301C [1#8, 2#8, 3#8, 4#8] (eccCached true (.single 3) .none) with
      | .ok _ t => some ((t.dline 0).tagEcc, (t.dline 0).line, (t.dline 0).dataEcc, (t.dline 0).data.drop 28, t.eccBus)
      | .stop _ => none) = some (.none, 0x180, .none, [1#8, 2#8, 3#8, 4#8], 0x2000#30) := by
  decide

/-- 60_exceptions.md R491, R495, R496: `eccinj.DCWB` 1 at the write-back by `flushd` of a dirty line: corrected on the way, DCWB_RE
signalled, the field 0 and cause 22 not to come. -/
theorem test_inject_writeback :
    (let t := State.dcacheFlushLine { eccCached true .none .none with eccinj := 0x100000#32 } 0x2000#32
     (t.eccinj, t.eccBus, t.wbError, t.mem)) = (0#32, 0x20000#30, false, []) := by
  decide

/-- 60_exceptions.md R491, R496: `flushda 0(r5)` that meets a 2-bit tag error raises cause 21 and signals DCTAG_UE; a dirty line
with a 2-bit error that `flushd` writes back leaves cause 22 to come. -/
theorem test_flush_ecc :
    (match exec (.flushda 5#5 0#16) (withRegs (eccCached true .double .none) [(5#5, 0x2000#32)]) with
      | .next t => some (field t.exception 2 5, t.badaddr, t.eccBus)
      | _ => none) = some (21#5, 0x2000#32, 0x4000#30)
    ∧ (match exec (.flushd 5#5 0#16) (withRegs (eccCached true .none .double) [(5#5, 0x2000#32)]) with
      | .next t => some (t.exception, t.wbError, (t.dline 0).valid)
      | _ => none) = some (0#32, true, false) := by
  decide

/-- 95_test_vectors.md section 2.6 with a load that fills the line: the error that `eccinj.DCDAT` asks for is injected by that load,
which does not meet it, and triggers on the next load of the line, which signals DCDAT_RE. -/
theorem test_inject_clean_line :
    [0x100#32, 0x200#32].map (fun j =>
      match dcacheRead 0x2000#32 0x2000 4 { State.resetOf { cacheCfg with hasEcc := true } with
          config := 0xC#32, eccinj := j, mem := put 0x2000 0x80FF7F01#32 [] } with
      | .ok b1 t =>
        match dcacheRead 0x2000#32 0x2000 4 t with
        | .ok b2 u => some (b1 == b2, b1, t.eccinj, t.eccBus, u.eccBus)
        | .stop _ => none
      | .stop _ => none) =
    List.replicate 2 (some (true, [0x01#8, 0x7F#8, 0xFF#8, 0x80#8], 0#32, 0#30, 0x8000#30)) := by
  decide

/-- 60_exceptions.md R490: with ECCEN = 0 a register with an error reads as its RAM holds it, each time and with no signal; with
ECCEN = 1 the 1-bit error is put right (R491). -/
theorem test_read_marked_register :
    [0#32, 4#32].map (fun c =>
      match readSource (0, 6#5) { withRegs (State.resetOf eccCfg) [(6#5, 0x10#32)] with config := c, rfEcc := [(6, .single 0)] } with
      | .ok _ t => some (t.reg 6#5, t.rfEcc, t.eccBus)
      | .stop _ => none) =
    [some (0x10#32, [(6, .single 0)], 0#30), some (0x11#32, [], 2#30)] := by
  decide

/-- 20_memory.md R126: `flushd 0(r5)` writes a line back whose dirty bit is set, valid or not. -/
theorem test_flushd_invalid_dirty :
    (match exec (.flushd 5#5 0#16) (withRegs { State.resetOf cacheCfg with
        dcache := { CacheLine.invalid with dirty := true, line := 0x100, data := List.replicate 32 0x5A#8 }
          :: (State.resetOf cacheCfg).dcache.tail } [(5#5, 0x2000#32)]) with
      | .next t => some (t.mem.read 0x2000, t.mem.read 0x201F, (t.dline 0).dirty)
      | _ => none) = some (0x5A#8, 0x5A#8, false) := by
  decide

/-- EccFetchAndTcm: an instruction line with each error, and a word of each tightly-coupled memory with each mark. -/
theorem witness_eccFetchAndTcm :
    ((eccCached false (.single 3) .none).LinesWhole ∧ (eccCached false (.single 3) .none).Canonical
      ∧ (eccCached false (.single 3) .none).icache.length = 512 / 32
      ∧ ((eccCached false (.single 3) .none).iline 0).valid = true ∧ ((eccCached false (.single 3) .none).iline 0).tagEcc ≠ .none
      ∧ ((eccCached false .none .double).iline 0).dataEcc ≠ .none ∧ (eccCached false .none .double).cfg.icacheSize ≠ 0)
    ∧ (let s := { State.resetOf { eccCfg with itcm := [{ base := 0x2000, size := 64 }], dtcm := [{ base := 0x3000, size := 64 }] }
         with config := 0xC#32, tcmEcc := [(0x800, .single 0), (0x801, .double), (0xC00, .single 31), (0xC01, .double)] }
       s.Canonical ∧ s.LinesWhole ∧ s.cfg.ecc = true ∧ s.cfg.wf = true ∧ bit s.config 2 = true ∧ bit s.config 3 = true
       ∧ tcmNumber s.cfg.itcms 0x2000 = some 0 ∧ tcmNumber s.cfg.dtcms 0x303C = some 0
       ∧ sparseGet EccMark.none s.tcmEcc (0x2000 / 4) = .single 0 ∧ sparseGet EccMark.none s.tcmEcc (0x2004 / 4) = .double
       ∧ sparseGet EccMark.none s.tcmEcc (0x2008 / 4) = .none ∧ sparseGet EccMark.none s.tcmEcc (0x3000 / 4) = .single 31
       ∧ sparseGet EccMark.none s.tcmEcc (0x3004 / 4) = .double ∧ sparseGet EccMark.none s.tcmEcc (0x303C / 4) = .none)
    ∧ field (0#32) 12 2 = 0#2 ∧ field (0x1000#32) 12 2 = 1#2 ∧ field (0x2000#32) 12 2 = 2#2 := by
  unfold State.Canonical State.LinesWhole
  decide

/-- ResetInvariants: a configuration that is admitted, with every unit that can be combined. -/
theorem witness_config : { mmuCfg with hasEcc := true, numShadow := 63, dcacheBytes := 65536 }.wf = true := by decide

/-- StepKeepsCanonical, StepKeepsImplementedBits, StepKeepsShape, StepKeepsPcAligned: reset satisfies the premises and takes
a step, here of `stw r6, 0(r5)`. -/
theorem witness_invariants :
    let s := start [(5#5, 0x2000#32), (6#5, 0xAABBCCDD#32)] 0x29800015#32
    s.Canonical ∧ s.StatusImplemented ∧ s.SpecialImplemented ∧ s.Shaped ∧ s.LinesWhole ∧ s.PcAligned ∧ s.VectorsAligned
    ∧ ∃ t, step s = .next t :=
  ⟨⟨by decide, rfl, rfl, rfl, rfl⟩, ⟨rfl, rfl, rfl⟩, by unfold State.SpecialImplemented; decide, by unfold State.Shaped; decide,
    by unfold State.LinesWhole; decide, rfl, ⟨by decide, rfl⟩, ⟨_, rfl⟩⟩

/-- UserModeContained: a step that stays in user mode, and one that leaves it. -/
theorem witness_userMode :
    let s := { mmuStart [] 0#32 (entry true true true) with status := 0x00800002#32, pc := 0x00400000#32,
                                                            mem := put 0x5000 0x3A0D883A#32 (put 0x5004 0x000D303A#32 []) }
    stU s.status = true ∧ stepped s (fun t => stU t.status) = some true
    ∧ stepped { s with pc := 0x00400004#32 } (fun t => (stU t.status, t.exception, t.pc)) =
      some (false, 0x28#32, 0xC0000020#32) := by
  decide

/-- The values of WorkedEntries (a), the worked entry of 60_exceptions.md R459. -/
theorem test_worked_trap :
    stepped { start [] 0x003B683A#32 with status := 0x00800001#32 } (fun t => (t.estatus, t.getGpr 0 29#5, t.status, t.exception)) =
      some (0x00800001#32, 0x1004#32, 0x00800000#32, 0x0C#32) := by decide

/-- WorkedEntries (d): an external interrupt into shadow set 2; `estatus` stays as it was. -/
theorem test_worked_external :
    stepped { requested 2#6 5#6 false with pc := 0x3000#32, estatus := 0x00800003#32 }
        (fun t => (t.getGpr 2 30#5, t.getGpr 2 29#5, t.status, t.estatus, t.pc)) =
      some (0x80800001#32, 0x3004#32, 0x00000858#32, 0x00800003#32, 0x8000#32) := by decide

end Sys2Proof.Tests
end

/-! ## Reset satisfies every invariant (O55) -/

namespace Sys2Proof

/-- The vector of an instruction address is an instruction address, with an MMU as well: the kernel partition differs in high
bits only. -/
theorem Config.vector_aligned (c : Config) {v : Word} (h : field v 0 2 = 0#2) : field (c.vector v) 0 2 = 0#2 := by
  unfold Config.vector
  split
  · rw [field_or, field_and, h]
    decide
  · exact h

/-- An admitted configuration has an instruction address as its reset vector (00_scope.md R7). -/
theorem Config.wf_resetAddr {c : Config} (h : c.wf = true) : field c.resetAddr 0 2 = 0#2 := by
  unfold Config.wf at h
  simp only [Bool.and_eq_true, beq_iff_eq] at h
  tauto

/-- RSIE is a bit of `status` exactly where it is implemented. -/
theorem Config.bit_statusMask_rsie (c : Config) : bit c.statusMask 23 = c.hasRsie := by
  have flag : ∀ on n, n < 23 → (flagMask on n).getLsbD 23 = false := fun on n hn => by
    have hb := bit_flagMask on n 23 (by omega)
    rw [decide_eq_false (by omega), Bool.and_false] at hb
    exact hb
  have rsie := bit_flagMask c.hasRsie 23 23 (by omega)
  have level : (if c.eic then 0x000003F8#32 else 0#32).getLsbD 23 = false := by cases c.eic <;> decide
  have number : ∀ (f : BitVec 6) lo, lo ≤ 17 → (place f lo).getLsbD 23 = false := fun f lo hlo => by
    rw [getLsbD_place, BitVec.getLsbD_of_ge f _ (by omega), Bool.and_false]
  unfold bit at rsie ⊢
  simp only [Config.statusMask, BitVec.getLsbD_or, rsie, level, flag _ 22 (by omega), flag _ 2 (by omega),
    flag _ 1 (by omega), flag _ 0 (by omega), number _ 16 (by omega), number _ 10 (by omega), decide_true, Bool.and_true,
    Bool.or_false]

/-- `status` after reset is a word that `status` can hold in every configuration: only RSIE is 1, implemented or not
(10_state.md R31, R41). -/
theorem Config.normStatus_resetStatus (c : Config) : c.normStatus resetStatus = resetStatus := by
  apply BitVec.eq_of_getLsbD_eq
  intro i hi
  by_cases h : i = 23
  · subst h
    have hm := c.bit_statusMask_rsie
    have hf := bit_flagMask (!c.hasRsie) 23 23 (by omega)
    unfold bit at hm hf
    simp only [Config.normStatus, Config.statusFixed, BitVec.getLsbD_or, BitVec.getLsbD_and, hm, hf]
    cases c.hasRsie <;> rfl
  · have hz : ∀ i < 32, i ≠ 23 → bit resetStatus i = false := by decide
    have hn := c.bit_normStatus resetStatus i h
    rw [hz i hi h] at hn
    exact hn.trans (hz i hi h).symm

namespace Machine

theorem resetOf_statusImplemented (c : Config) : (State.resetOf c).StatusImplemented :=
  ⟨c.normStatus_resetStatus, c.normStatus_idem _, c.normStatus_idem _⟩

theorem resetOf_specialImplemented (c : Config) : (State.resetOf c).SpecialImplemented := by
  simp [State.SpecialImplemented, State.resetOf, bit]

/-- A table of `n` entries that exists only on a core with its unit. -/
theorem length_ite_nil {α : Type} {p : Bool} {l : List α} {n : Nat} (h : l.length = n) :
    (if p then l else []).length = if p then n else 0 := by
  cases p
  · rfl
  · exact h

theorem resetOf_shaped (c : Config) : (State.resetOf c).Shaped :=
  ⟨List.length_replicate, length_ite_nil List.length_replicate, length_ite_nil List.length_replicate,
    length_ite_nil List.length_replicate, List.length_replicate, List.length_replicate, fun _ => rfl, fun _ => rfl⟩

theorem resetOf_linesWhole (c : Config) : (State.resetOf c).LinesWhole := by
  have whole : ∀ n, ∀ l ∈ List.replicate n CacheLine.invalid, l.data.length = 32 := fun n l hl => by
    rw [List.eq_of_mem_replicate hl]
    rfl
  exact ⟨whole _, whole _⟩

/-- Reset selects the normal register set, which every core has (10_state.md R33, R41). -/
theorem resetOf_setImplemented (c : Config) : (State.resetOf c).SetImplemented := by
  have hcrs : (State.resetOf c).crs = 0 := (by decide : (stCrs resetStatus).toNat = 0)
  exact hcrs.le.trans (Nat.zero_le _)

/-- Settles O55: each invariant read off the values that `State.resetOf` gives. -/
theorem resetInvariants : Obligations.ResetInvariants :=
  ⟨by decide, fun c hc => ⟨⟨rfl, rfl, rfl, rfl, rfl⟩, resetOf_statusImplemented c, resetOf_specialImplemented c,
    c.vector_aligned (Config.wf_resetAddr hc), ⟨hc, rfl⟩, resetOf_shaped c, resetOf_linesWhole c, resetOf_setImplemented c⟩⟩

end Machine

end Sys2Proof

/-! ## Every line of a cache keeps its 32 bytes (20_memory.md R125, R132)

`Laws/Inner.lean` says what the memory system leaves of everything but the contents of the lines; this layer adds that each
operation on a line leaves it whole. -/

namespace Sys2Proof.Machine

open Sys2Proof

/-! ### Bytes -/

@[simp] theorem flipBytes_length (bs : List Byte) (k : Nat) : (flipBytes bs k).length = bs.length := by
  simp [flipBytes]

@[simp] theorem foldl_flipBytes_length (ks : List Nat) (bs : List Byte) : (ks.foldl flipBytes bs).length = bs.length := by
  induction ks generalizing bs with
  | nil => rfl
  | cons k ks ih => rw [List.foldl_cons, ih, flipBytes_length]

/-- Bytes put inside a line do not change its length. -/
theorem patchBytes_length {data : List Byte} {off : Nat} {bs : List Byte} (h : off + bs.length ≤ data.length) :
    (patchBytes data off bs).length = data.length := by
  simp only [patchBytes, List.length_append, List.length_take, List.length_drop]
  omega

@[simp] theorem CacheLine.fixedData_length (l : CacheLine) : l.fixedData.length = l.data.length :=
  foldl_flipBytes_length _ _

@[simp] theorem filledLine_data_length (m line : Nat) (data : List Byte) (tagBits dataBits : List Nat) :
    (filledLine m line data tagBits dataBits).data.length = data.length :=
  foldl_flipBytes_length _ _

/-- An access of a size that divides a line, at an address whose place in the page is a multiple of the size, stays inside its
line. -/
theorem line_offset_fits {n p a : Nat} (hn : n ∣ 32) (hp : p % 4096 = a % 4096) (ha : n ∣ a) : p % 32 + n ≤ 32 := by
  have hpa : p % 32 = a % 32 := by omega
  have hd : n ∣ 32 - p % 32 := Nat.dvd_sub hn (hpa ▸ (Nat.dvd_mod_iff hn).2 ha)
  have := Nat.le_of_dvd (by omega) hd
  omega

/-- The unit that holds an address starts at a multiple of its size. -/
theorem dvd_alignDown (n : Nat) (va : Word) : n ∣ (alignDown va n).toNat := by
  have hle : va.toNat % n ≤ va.toNat := Nat.mod_le _ _
  have hlt := va.isLt
  have hv : (alignDown va n).toNat = va.toNat - va.toNat % n := by
    rw [alignDown, BitVec.toNat_sub, BitVec.toNat_ofNat]
    omega
  rw [hv]
  exact Nat.dvd_sub_mod _

/-- So does its successor, which may wrap. -/
theorem dvd_add_ofNat {n : Nat} (hn : n ∣ 32) {u : Word} (hu : n ∣ u.toNat) : n ∣ (u + BitVec.ofNat 32 n).toNat := by
  have h32 : n ∣ 2 ^ 32 := hn.trans (by decide)
  rw [BitVec.toNat_add, BitVec.toNat_ofNat, Nat.dvd_mod_iff h32]
  exact (Nat.dvd_add_right hu).2 ((Nat.dvd_mod_iff h32).2 dvd_rfl)

/-! ### Lines -/

namespace State.LinesWhole

/-- What leaves both caches as they are. -/
theorem congr {s t : State} (h : s.LinesWhole) (hi : t.icache = s.icache) (hd : t.dcache = s.dcache) : t.LinesWhole := by
  rw [State.LinesWhole, hi, hd]
  exact h

theorem iline {s : State} (h : s.LinesWhole) (i : Nat) : (s.iline i).data.length = 32 := by
  unfold State.iline
  by_cases hi : i < s.icache.length
  · rw [List.getD_eq_getElem _ _ hi]
    exact h.1 _ (List.getElem_mem hi)
  · rw [List.getD_eq_default _ _ (by omega)]
    rfl

theorem setDline {s : State} (h : s.LinesWhole) (i : Nat) {l : CacheLine} (hl : l.data.length = 32) :
    (s.setDline i l).LinesWhole :=
  ⟨h.1, fun l' hm => (List.mem_or_eq_of_mem_set hm).elim (h.2 l') (fun e => e ▸ hl)⟩

theorem setIline {s : State} (h : s.LinesWhole) (i : Nat) {l : CacheLine} (hl : l.data.length = 32) :
    (s.setIline i l).LinesWhole :=
  ⟨fun l' hm => (List.mem_or_eq_of_mem_set hm).elim (h.1 l') (fun e => e ▸ hl), h.2⟩

theorem drawn {s : State} (h : s.LinesWhole) : s.drawn.LinesWhole := h

theorem signal {s : State} (h : s.LinesWhole) (n : Nat) : (s.signal n).LinesWhole := h

theorem injectionDone {s : State} (h : s.LinesWhole) (lo : Nat) : (s.injectionDone lo).LinesWhole :=
  h.congr (s.injectionDone_icache lo) (s.injectionDone_dcache lo)

theorem busReadState {s : State} (h : s.LinesWhole) (ram : Nat → Bool) (a n : Nat) :
    (busReadState ram s a n).LinesWhole := by
  unfold Machine.busReadState
  split
  · exact h
  · exact h.drawn

theorem keepPrefetched {s t : State} (h : t.LinesWhole) (ks : List Nat) : (s.keepPrefetched t ks).LinesWhole :=
  h.congr (State.keepPrefetched_icache s t ks) (State.keepPrefetched_dcache s t ks)

theorem busWrite {s : State} (h : s.LinesWhole) (a : Nat) (bs : List Byte) : (s.busWrite a bs).LinesWhole :=
  h.congr (s.busWriteTo_icache _ _ a bs) (s.busWriteTo_dcache _ _ a bs)

theorem lineWrite {s : State} (h : s.LinesWhole) (a : Nat) (bs : List Byte) : (s.lineWrite a bs).LinesWhole :=
  h.congr (s.busWriteTo_icache _ _ a bs) (s.busWriteTo_dcache _ _ a bs)

theorem tcmWrite {s : State} (h : s.LinesWhole) (k a : Nat) (bs : List Byte) : (s.tcmWrite k a bs).LinesWhole := by
  unfold State.tcmWrite
  split
  · exact h.congr (by simp [State.flipTcm]) (by simp [State.flipTcm])
  · exact h.busWrite a bs

theorem tlbSettled {s : State} (h : s.LinesWhole) (vpn : BitVec 20) : (s.tlbSettled vpn).LinesWhole := by
  unfold State.tlbSettled
  dsimp only
  split
  · exact h
  · split <;> split <;> exact h

/-! ### The data cache -/

theorem dtagRead {s : State} (h : s.LinesWhole) (i : Nat) {l : CacheLine} (hl : l.data.length = 32) :
    (s.dtagRead i l).LinesWhole := by
  unfold State.dtagRead
  split
  · exact h
  · refine signal (h.setDline i ?_) _
    exact hl
  · exact h
  · exact h

theorem writeBack {s : State} (h : s.LinesWhole) (l : CacheLine) : (s.writeBack l).LinesWhole := by
  unfold State.writeBack
  dsimp only
  split <;> exact h.congr (by simp) (by simp)

theorem evict {s : State} (h : s.LinesWhole) (i : Nat) : (s.evict i).LinesWhole := by
  unfold State.evict
  split
  · exact h.writeBack _
  · exact h

theorem dfill {s : State} (h : s.LinesWhole) (i a : Nat) : (s.dfill i a).LinesWhole := by
  unfold State.dfill
  refine (((h.busReadState _ _ _).setDline i ?_).injectionDone _).injectionDone _
  rw [filledLine_data_length, State.dfillBytes, busBytes_length]

/-- A store of bytes that do not reach past the line. -/
theorem dstore {s : State} (h : s.LinesWhole) (i : Nat) {a : Nat} {bs : List Byte} (hf : a % 32 + bs.length ≤ 32) :
    (s.dstore i a bs).LinesWhole := by
  have hd : (patchBytes (s.dline i).data (a % 32) bs).length = 32 := by
    rw [patchBytes_length (by rw [s.dline_length h]; exact hf), s.dline_length h]
  unfold State.dstore
  dsimp only
  split
  · exact (h.injectionDone _).setDline i (by rw [foldl_flipBytes_length, hd])
  · exact ((h.injectionDone _).injectionDone _).setDline i (by rw [foldl_flipBytes_length, hd])

theorem dinvalidate {s : State} (h : s.LinesWhole) (i : Nat) : (s.dinvalidate i).LinesWhole := by
  unfold State.dinvalidate
  refine injectionDone (h.setDline i ?_) _
  exact s.dline_length h i

theorem dcacheFlushLine {s : State} (h : s.LinesWhole) (addr : Word) : (s.dcacheFlushLine addr).LinesWhole := by
  unfold State.dcacheFlushLine
  dsimp only
  split
  · exact h
  · refine (evict ?_ _).dinvalidate _
    split
    · exact h.dtagRead _ (s.dline_length h _)
    · exact h

theorem dcacheInitLine {s : State} (h : s.LinesWhole) (addr : Word) : (s.dcacheInitLine addr).LinesWhole := by
  unfold State.dcacheInitLine
  split
  · exact h
  · exact h.dinvalidate _

/-! ### The instruction cache -/

theorem ifill {s : State} (h : s.LinesWhole) (i a : Nat) : (s.ifill i a).LinesWhole := by
  unfold State.ifill
  refine (((h.busReadState _ _ _).setIline i ?_).injectionDone _).injectionDone _
  rw [filledLine_data_length, State.ifillBytes, busBytes_length]

theorem isignal {s : State} (h : s.LinesWhole) (l : CacheLine) : (s.isignal l).LinesWhole := by
  unfold State.isignal
  dsimp only
  split <;> split <;> exact h

theorem icacheInvalidateLine {s : State} (h : s.LinesWhole) (addr : Word) : (s.icacheInvalidateLine addr).LinesWhole := by
  unfold State.icacheInvalidateLine
  split
  · exact h
  · refine congr (h.setIline _ ?_) (State.aheadFlushed_icache _ _) (State.aheadFlushed_dcache _ _)
    exact h.iline _

/-! ### Misaligned stores with the check off -/

theorem scramble {s : State} (h : s.LinesWhole) (io : Bool) {va : Word} {n : Nat} (hn : n ∣ 32) (hva : n ∣ va.toNat) :
    (s.scramble io va n).LinesWhole := by
  have hf := line_offset_fits hn (flatPhysical_low s.cfg va) hva
  unfold State.scramble
  dsimp only
  split
  · refine State.LinesWhole.setDline (s := State.drawn _) h _ ?_
    rw [patchBytes_length (by rw [freeBytes_length, s.dline_length h]; exact hf), s.dline_length h]
  · exact h

theorem scrambleBoth {s : State} (h : s.LinesWhole) (io : Bool) (va : Word) {n : Nat} (hn : n ∣ 32) :
    (s.scrambleBoth io va n).LinesWhole := by
  have hu := dvd_alignDown n va
  exact keepPrefetched ((h.scramble io hn hu).scramble io hn (dvd_add_ofNat hn hu)) _

/-! ### Exceptions -/

/-- An exception touches no cache, so that the lines are whole after it exactly where they are before it. -/
theorem take_iff {s : State} {x : Exc} : (s.take x).LinesWhole ↔ s.LinesWhole := by
  have hi : (s.take x).icache = s.icache := by rw [State.take, State.nonbreakEntry_only]
  have hd : (s.take x).dcache = s.dcache := by rw [State.take, State.nonbreakEntry_only]
  exact ⟨fun h => h.congr hi.symm hd.symm, fun h => h.congr hi hd⟩

end State.LinesWhole

end Sys2Proof.Machine

/-! ## The parts of an instruction leave every line whole -/

namespace Sys2Proof.Machine

open Sys2Proof

/-- Every line is whole in the state that a part of an instruction answers, or in which it ends the step. -/
def Flow.LinesWhole {α : Type} (m : Flow α) : Prop :=
  match m with
  | .ok _ t => t.LinesWhole
  | .stop o => ∀ t, o = .next t → t.LinesWhole

namespace Flow

theorem linesWhole_raise {α : Type} {s : State} (x : Exc) (h : s.LinesWhole) : (.stop (raise x s) : Flow α).LinesWhole := by
  intro t ht
  injection ht with ht
  exact ht ▸ State.LinesWhole.take_iff.2 h

theorem linesWhole_fault {α : Type} (f : Fault) : (.stop (.fault f) : Flow α).LinesWhole := fun _ ht => by cases ht

theorem LinesWhole.andThen {α β : Type} {m : Flow α} {k : α → State → Flow β} (hm : m.LinesWhole)
    (hk : ∀ a t, m = .ok a t → t.LinesWhole → (k a t).LinesWhole) : (m.andThen k).LinesWhole := by
  cases m with
  | ok a t => exact hk a t rfl hm
  | stop o => exact hm

end Flow

/-! ### Tightly-coupled memory and the data cache -/

theorem tcmRead_linesWhole (ram : Nat → Bool) (x : Exc) (re ue a n : Nat) {s : State} (h : s.LinesWhole) :
    (tcmRead ram x re ue a n s).LinesWhole := by
  unfold tcmRead
  split
  · exact h.busReadState ram a n
  · exact State.LinesWhole.busReadState (s := s.correctTcm ram a) h ram a n
  · exact Flow.linesWhole_raise x (h.signal ue)
  · exact h

theorem dpresent_linesWhole (va : Word) (i a : Nat) {s : State} (h : s.LinesWhole) : (dpresent va i a s).LinesWhole := by
  have htag := h.dtagRead i (s.dline_length h i)
  unfold dpresent
  dsimp only
  split
  · split
    · exact Flow.linesWhole_raise _ htag
    · split
      · exact htag
      · exact (htag.evict i).dfill i a
  · exact h.dfill i a

theorem dcacheRead_linesWhole (va : Word) (a n : Nat) {s : State} (h : s.LinesWhole) : (dcacheRead va a n s).LinesWhole := by
  unfold dcacheRead
  refine (dpresent_linesWhole va _ a h).andThen fun filled t _ ht => ?_
  dsimp only
  split
  · exact ht
  · split
    · exact ht
    · split
      · refine (ht.setDline _ ?_).signal 15
        exact (CacheLine.fixedData_length _).trans (t.dline_length ht _)
      · exact (ht.dfill _ a).signal 15
    · exact Flow.linesWhole_raise _ (ht.signal 16)
    · exact ht

theorem dcacheWrite_linesWhole (va : Word) {a : Nat} {bs : List Byte} (hf : a % 32 + bs.length ≤ 32) {s : State}
    (h : s.LinesWhole) : (dcacheWrite va a bs s).LinesWhole := by
  unfold dcacheWrite
  exact (dpresent_linesWhole va _ a h).andThen fun _ t _ ht => ht.dstore _ hf

theorem dcacheCompare_linesWhole (addr : Word) (a : Nat) {s : State} (h : s.LinesWhole) :
    (dcacheCompare addr a s).LinesWhole := by
  have htag : ∀ i, (s.dtagRead i (s.dline i)).LinesWhole := fun i => h.dtagRead i (s.dline_length h i)
  unfold dcacheCompare
  dsimp only
  split
  · exact h
  · split
    · exact Flow.linesWhole_raise _ (htag _)
    · exact htag _

theorem dcacheFlushAddr_linesWhole (addr : Word) (a : Nat) {s : State} (h : s.LinesWhole) :
    (dcacheFlushAddr addr a s).LinesWhole := by
  unfold dcacheFlushAddr
  refine (dcacheCompare_linesWhole addr a h).andThen fun hit t _ ht => ?_
  cases hit
  · exact ht
  · exact (ht.evict _).dinvalidate _

theorem dcacheInitAddr_linesWhole (addr : Word) (a : Nat) {s : State} (h : s.LinesWhole) :
    (dcacheInitAddr addr a s).LinesWhole := by
  unfold dcacheInitAddr
  refine (dcacheCompare_linesWhole addr a h).andThen fun hit t _ ht => ?_
  cases hit
  · exact ht
  · exact ht.dinvalidate _

/-! ### The instruction cache -/

theorem icacheRead_linesWhole (va : Word) (a : Nat) {s : State} (h : s.LinesWhole) : (icacheRead va a s).LinesWhole := by
  unfold icacheRead
  dsimp only
  split
  · exact h
  · refine State.LinesWhole.ifill ?_ _ a
    split
    · exact h.isignal _
    · exact h

/-! ### Translation -/

theorem tlbLookup_linesWhole {α : Type} (va : Word) {s : State} (miss : Exc) {hit : TlbEntry → State → Flow α}
    (h : s.LinesWhole) (hh : ∀ e t, t.LinesWhole → (hit e t).LinesWhole) : (tlbLookup va s miss hit).LinesWhole := by
  unfold tlbLookup
  split
  · exact Flow.linesWhole_raise _ (h.tlbSettled _)
  · exact hh _ _ (h.tlbSettled _)
  · exact Flow.linesWhole_fault _

theorem mmuFetch_linesWhole (va : Word) {s : State} (h : s.LinesWhole) : (mmuFetch va s).LinesWhole := by
  unfold mmuFetch
  split
  · split
    · exact Flow.linesWhole_raise _ h
    · exact h
  · split
    · exact Flow.linesWhole_raise _ (h.tlbSettled _)
    · split
      · exact Flow.linesWhole_raise _ h
      · refine tlbLookup_linesWhole va _ h fun e t ht => ?_
        split
        · exact ht
        · exact Flow.linesWhole_raise _ ht

theorem mmuData_linesWhole (va : Word) (kind : AccessKind) {s : State} (h : s.LinesWhole) :
    (mmuData va kind s).LinesWhole := by
  unfold mmuData
  split
  · exact h
  · split
    · exact Flow.linesWhole_raise _ (h.tlbSettled _)
    · refine tlbLookup_linesWhole va _ h fun e t ht => ?_
      split
      · exact Flow.linesWhole_raise _ ht
      · exact ht

theorem mpuFetch_linesWhole (va : Word) {s : State} (h : s.LinesWhole) : (mpuFetch va s).LinesWhole := by
  unfold mpuFetch
  split
  · split
    · split
      · exact Flow.linesWhole_fault _
      · exact h
      · split
        · exact Flow.linesWhole_fault _
        · exact h
    · exact h
  · exact h

theorem mpuData_linesWhole (va : Word) (a : Nat) (kind : AccessKind) {s : State} (h : s.LinesWhole) :
    (mpuData va a kind s).LinesWhole := by
  unfold mpuData
  split
  · split
    · split
      · exact Flow.linesWhole_fault _
      · exact Flow.linesWhole_raise _ h
      · split
        · exact Flow.linesWhole_fault _
        · exact h
        · exact Flow.linesWhole_raise _ h
    · exact Flow.linesWhole_raise _ h
  · exact h

theorem translateData_linesWhole (va : Word) (kind : AccessKind) {s : State} (h : s.LinesWhole) :
    (translateData va kind s).LinesWhole := by
  unfold translateData
  split
  · exact mmuData_linesWhole va kind h
  · refine (mpuData_linesWhole va _ kind h).andThen fun mt t _ ht => ?_
    show State.LinesWhole (if _ then _ else _)
    split
    · exact ht.drawn
    · exact ht

theorem userAddressCheck_linesWhole (va : Word) {s : State} (h : s.LinesWhole) : (userAddressCheck va s).LinesWhole := by
  unfold userAddressCheck
  split
  · exact Flow.linesWhole_raise _ h
  · exact h

/-! ### Access -/

theorem physRead_linesWhole (va : Word) (io cacheable : Bool) (a n : Nat) {s : State} (h : s.LinesWhole) :
    (physRead va io cacheable a n s).LinesWhole := by
  unfold physRead
  split
  · exact tcmRead_linesWhole _ _ _ _ _ _ h
  · split
    · exact dcacheRead_linesWhole va a n h
    · exact h.busReadState _ a n

theorem physWrite_linesWhole (va : Word) (io cacheable : Bool) {a : Nat} {bs : List Byte} (hf : a % 32 + bs.length ≤ 32)
    {s : State} (h : s.LinesWhole) : (physWrite va io cacheable a bs s).LinesWhole := by
  unfold physWrite
  split
  · exact h.tcmWrite _ a bs
  · split
    · exact dcacheWrite_linesWhole va hf h
    · exact h.busWrite a bs

/-- A store of bytes whose number divides a line, at a multiple of that number: translation keeps the page offset, so they
stay inside one line. -/
theorem alignedWrite_linesWhole (io : Bool) {va : Word} {bs : List Byte} (hn : bs.length ∣ 32) (ha : bs.length ∣ va.toNat)
    {s : State} (h : s.LinesWhole) : (alignedWrite io va bs s).LinesWhole := by
  unfold alignedWrite
  exact (translateData_linesWhole va .store h).andThen fun p t hp ht =>
    physWrite_linesWhole va io p.2 (line_offset_fits hn (translateData_low hp) ha) ht

theorem memRead_linesWhole (io : Bool) (va : Word) (n : Nat) (extend : Word → Word) {s : State} (h : s.LinesWhole) :
    (memRead io va n extend s).LinesWhole := by
  unfold memRead
  refine (userAddressCheck_linesWhole va h).andThen fun _ t _ ht => ?_
  split
  · refine (translateData_linesWhole va .load ht).andThen fun p u _ hu => ?_
    refine (physRead_linesWhole va io p.2 p.1 n hu).andThen fun bs w _ hw => ?_
    split
    · exact hw
    · exact hw
  · split
    · exact Flow.linesWhole_raise _ ht
    · exact ht

/-- The stores of the Nios II are of 1, 2 and 4 bytes. -/
theorem memWrite_linesWhole (io : Bool) (va : Word) {n : Nat} (hn : n ∈ [1, 2, 4]) (v : Word) {s : State}
    (h : s.LinesWhole) : (memWrite io va n v s).LinesWhole := by
  have hlen : (storeBytes v n).length = n := by
    simp only [List.mem_cons, List.not_mem_nil, or_false] at hn
    obtain rfl | rfl | rfl := hn <;> rfl
  have hdvd : n ∣ 32 := by
    simp only [List.mem_cons, List.not_mem_nil, or_false] at hn
    obtain rfl | rfl | rfl := hn <;> decide
  unfold memWrite
  refine (userAddressCheck_linesWhole va h).andThen fun _ t _ ht => ?_
  split
  · next ha =>
    refine alignedWrite_linesWhole io (hlen.symm ▸ hdvd) ?_ ht
    rw [hlen]
    exact Nat.dvd_of_mod_eq_zero ((aligned_iff va n).1 ha)
  · split
    · exact Flow.linesWhole_raise _ ht
    · exact ht.scrambleBoth io va hdvd

theorem cacheOpTranslate_linesWhole (va : Word) (kind : AccessKind) {s : State} (h : s.LinesWhole) :
    (cacheOpTranslate va kind s).LinesWhole := by
  unfold cacheOpTranslate
  refine (userAddressCheck_linesWhole va h).andThen fun _ t _ ht => ?_
  exact (translateData_linesWhole va kind ht).andThen fun p u _ hu => hu

/-! ### Fetch -/

theorem physFetch_linesWhole (va : Word) (a : Nat) {s : State} (h : s.LinesWhole) : (physFetch va a s).LinesWhole := by
  unfold physFetch
  split
  · split
    · exact h
    · exact (tcmRead_linesWhole _ _ _ _ _ _ h).andThen fun bs t _ ht => ht
  · split
    · exact (icacheRead_linesWhole va a h).andThen fun bs t _ ht => ht
    · exact h.busReadState _ a 4

theorem fetchAt_linesWhole (va : Word) (a : Nat) {s : State} (h : s.LinesWhole) : (fetchAt va a s).LinesWhole := by
  unfold fetchAt
  refine (physFetch_linesWhole va a h).andThen fun f t _ ht => ?_
  split
  · exact ht
  · exact ht

theorem fetch_linesWhole {s : State} (h : s.LinesWhole) : (fetch s).LinesWhole := by
  unfold fetch
  split
  · split
    · exact (mmuFetch_linesWhole s.pc h).andThen fun a t _ ht => fetchAt_linesWhole s.pc a ht
    · refine (mpuFetch_linesWhole s.pc h).andThen fun violates t _ ht => ?_
      refine (fetchAt_linesWhole s.pc _ ht).andThen fun w u _ hu => ?_
      split
      · exact ht
      · exact hu
  · exact Flow.linesWhole_fault _

end Sys2Proof.Machine

/-! ## What one instruction can do -/

namespace Sys2Proof.Machine

open Sys2Proof

/-- A change inside the memory system that leaves every cache line whole. -/
structure Inside (s t : State) : Prop extends Inner s t where
  linesWhole : s.LinesWhole → t.LinesWhole

theorem Inside.refl (s : State) : Inside s s := ⟨Inner.refl s, id⟩

theorem Inside.trans {s t u : State} (h : Inside s t) (g : Inside t u) : Inside s u :=
  ⟨h.toInner.trans g.toInner, fun w => g.linesWhole (h.linesWhole w)⟩

theorem inside_drawn (s : State) : Inside s s.drawn := ⟨inner_drawn s, id⟩

/-- As `Flow.Within`, with the lines whole. -/
def Flow.Inside {α : Type} (s : State) (m : Flow α) : Prop :=
  match m with
  | .ok _ t => Machine.Inside s t
  | .stop o => (∃ x t, Machine.Inside s t ∧ o = raise x t) ∨ ∃ f, o = .fault f

theorem Flow.Within.inside {α : Type} {s : State} {m : Flow α} (hm : m.Within s) (hl : s.LinesWhole → m.LinesWhole) :
    m.Inside s := by
  cases m with
  | ok a t => exact ⟨hm, hl⟩
  | stop o =>
    rcases hm with ⟨x, t, hi, rfl⟩ | hf
    · exact .inl ⟨x, t, ⟨hi, fun h => State.LinesWhole.take_iff.1 (hl h _ rfl)⟩, rfl⟩
    · exact .inr hf

theorem Flow.Inside.mono {α : Type} {s t : State} {m : Flow α} (h : Machine.Inside s t) (hm : m.Inside t) : m.Inside s := by
  cases m with
  | ok a u => exact h.trans hm
  | stop o =>
    rcases hm with ⟨x, u, hu, ho⟩ | hf
    · exact .inl ⟨x, u, h.trans hu, ho⟩
    · exact .inr hf

/-- The states that an instruction run in `s` can answer. What the memory system does before the instruction writes a register
or the program counter is an `Inside` state `u`. -/
inductive ExecNext (s : State) : State → Prop
  /-- An exception (60_exceptions.md R449). -/
  | raised {u : State} (x : Exc) (h : Inside s u) : ExecNext s (u.take x)
  /-- No register written: stores, branches, jumps, cache instructions, `sync`. -/
  | moved {u : State} (pc : Word) (h : Inside s u) (hpc : pc = s.nextPc ∨ field pc 0 2 = 0#2) : ExecNext s { u with pc := pc }
  /-- One register of the current set written, by an instruction other than a load. -/
  | wrote {u : State} (r : RegIdx) (v pc : Word) (h : Inside s u) (hpc : pc = s.nextPc ∨ field pc 0 2 = 0#2) :
    ExecNext s { u.setReg r v with pc := pc }
  /-- A load (40_data_transfer.md R241). -/
  | loaded {u : State} (r : RegIdx) (v : Word) (h : Inside s u) : ExecNext s (u.setLoaded r v).advance
  /-- `custom` (47_custom_nop.md R420). -/
  | custom (logic : Nat) (r : RegIdx) (v : Word) : ExecNext s ({ s with customState := logic }.setReg r v).advance
  /-- `rdctl` (46_other_control.md R395). -/
  | readControl (n : BitVec 5) (r : RegIdx) (v : Word) (hU : stU s.status = false) :
    ExecNext s ((s.ctlRead n).setReg r v).advance
  /-- `wrctl` (46_other_control.md R396). -/
  | wroteControl {u : State} (n : BitVec 5) (v : Word) (hU : stU s.status = false) (h : s.writeCtl n v = .ok () u) :
    ExecNext s (u.flushedBy n).advance
  /-- `wrprs` (46_other_control.md R412). -/
  | wrotePrevious (r : RegIdx) (v : Word) (hU : stU s.status = false) :
    ExecNext s (s.setGpr s.prs r v).pipelineFlushed.advance
  /-- `flushp` (46_other_control.md R407). -/
  | flushed : ExecNext s s.pipelineFlushed.advance
  /-- `eret` and `bret` (60_exceptions.md R470, R472). -/
  | returned (saved pc : Word) (debug : Bool) (hU : stU s.status = false) (hpc : field pc 0 2 = 0#2) :
    ExecNext s { s.pipelineFlushed with status := restoredStatus s.cfg s.status saved, debugMode := debug, pc := pc }
  /-- `break` (60_exceptions.md R460). -/
  | broke : ExecNext s s.breakEntry

section

variable {s t : State}

/-! ### The shared operations -/

theorem ExecNext.of_raise {x : Exc} {u : State} (hu : Inside s u) (h : raise x u = .next t) : ExecNext s t := by
  injection h with h
  exact h ▸ .raised x hu

/-- Falling through, from a state with the same program counter. -/
theorem advance_eq {u : State} (h : u.pc = s.pc) : u.advance = { u with pc := s.nextPc } := by
  rw [State.advance, State.nextPc, h, State.nextPc]

theorem ExecNext.of_advance {u : State} (hu : Inside s u) (h : (.next u.advance : Result) = .next t) : ExecNext s t := by
  injection h with h
  rw [← h, advance_eq hu.pc]
  exact .moved _ hu (.inl rfl)

theorem ExecNext.of_finish {u : State} {r : RegIdx} {v : Word} (hu : Inside s u) (h : u.finish r v = .next t) :
    ExecNext s t := by
  injection h with h
  rw [← h, advance_eq ((u.setReg_pc r v).trans hu.pc)]
  exact .wrote r v _ hu (.inl rfl)

theorem ExecNext.of_bind {α : Type} {m : Flow α} {k : α → State → Result} (hm : m.Inside s)
    (hk : ∀ a u, Inside s u → k a u = .next t → ExecNext s t) (h : m.bind k = .next t) : ExecNext s t := by
  cases m with
  | ok a u => exact hk a u hm h
  | stop o =>
    rcases hm with ⟨x, u, hu, rfl⟩ | ⟨f, rfl⟩
    · exact .of_raise hu h
    · cases h

theorem ExecNext.of_supervisorOnly {rest : Result} (hr : stU s.status = false → rest = .next t → ExecNext s t)
    (h : supervisorOnly s rest = .next t) : ExecNext s t := by
  rcases supervisorOnly_cases s rest with ⟨-, he⟩ | ⟨hU, he⟩
  · exact .of_raise (Inside.refl s) (he.symm.trans h)
  · exact hr hU (he.symm.trans h)

theorem ExecNext.of_whenImplemented {present : Bool} {rest : Result} (hr : rest = .next t → ExecNext s t)
    (h : whenImplemented present s rest = .next t) : ExecNext s t := by
  rcases whenImplemented_cases present s rest with ⟨-, he⟩ | ⟨-, he⟩
  · exact .of_raise (Inside.refl s) (he.symm.trans h)
  · exact hr (he.symm.trans h)

theorem ExecNext.of_illegalInstruction {u : State} (hu : Inside s u) (h : illegalInstruction u = .next t) :
    ExecNext s t := by
  rcases illegalInstruction_cases u with ⟨-, he⟩ | ⟨-, he⟩
  · exact .of_raise hu (he.symm.trans h)
  · cases he.symm.trans h

theorem ExecNext.of_previousSetAccess {rest : Result} (hr : stU s.status = false → rest = .next t → ExecNext s t)
    (h : previousSetAccess s rest = .next t) : ExecNext s t := by
  unfold previousSetAccess at h
  split at h
  · split at h
    · split at h
      · exact .of_raise (inside_drawn s) h
      · exact .of_illegalInstruction (inside_drawn s) h
    · exact .of_illegalInstruction (Inside.refl s) h
  · refine .of_supervisorOnly (fun hU h => ?_) h
    split at h
    · exact hr hU h
    · cases h

/-- A transfer that writes no register. -/
theorem ExecNext.of_transfer {target : Word} (h : transfer target s s = .next t) : ExecNext s t := by
  rcases transfer_cases h with ⟨ha, rfl⟩ | ⟨-, -, rfl⟩
  · exact .moved _ (Inside.refl s) (.inr ha)
  · exact .raised _ (Inside.refl s)

/-- `eret` and `bret`. -/
theorem ExecNext.of_return {target saved : Word} {debug : Bool} (hU : stU s.status = false)
    (h : transfer target { s.pipelineFlushed with status := restoredStatus s.cfg s.status saved, debugMode := debug } s
      = .next t) : ExecNext s t := by
  rcases transfer_cases h with ⟨ha, rfl⟩ | ⟨-, -, rfl⟩
  · exact .returned saved target debug hU ha
  · exact .raised _ (Inside.refl s)

/-! ### The operand forms -/

theorem ExecNext.of_opDivide {error : Bool} {quotient : Word} {c : RegIdx}
    (h : opDivide error quotient c s = .next t) : ExecNext s t := by
  refine .of_whenImplemented (fun h => ?_) h
  split at h
  · split at h
    · exact .of_raise (Inside.refl s) h
    · exact .of_finish (inside_drawn s) h
  · exact .of_finish (Inside.refl s) h

theorem ExecNext.of_opBranch {rel : Word → Word → Bool} {a b : RegIdx} {imm16 : BitVec 16}
    (h : opBranch rel a b imm16 s = .next t) : ExecNext s t := by
  rcases opBranch_cases h with ⟨-, ha, rfl⟩ | ⟨-, rfl | rfl⟩ | ⟨-, -, rfl | rfl⟩
  · exact .moved _ (Inside.refl s) (.inr ha)
  · exact .of_advance (Inside.refl s) rfl
  · exact .of_advance (inside_drawn s) rfl
  · exact .raised _ (Inside.refl s)
  · exact .raised _ (inside_drawn s)

theorem ExecNext.of_opLoad {io : Bool} {n : Nat} {extend : Word → Word} {b a : RegIdx} {imm16 : BitVec 16}
    (h : opLoad io n extend b a imm16 s = .next t) : ExecNext s t := by
  refine .of_bind ((memRead_within io _ n extend s).inside (memRead_linesWhole io _ n extend)) (fun v u hu h => ?_) h
  injection h with h
  exact h ▸ .loaded b v hu

theorem ExecNext.of_opStore {io : Bool} {n : Nat} (hn : n ∈ [1, 2, 4]) {b a : RegIdx} {imm16 : BitVec 16}
    (h : opStore io n b a imm16 s = .next t) : ExecNext s t :=
  .of_bind ((memWrite_within io _ n _ s).inside (memWrite_linesWhole io _ hn _)) (fun _ _ hu h => .of_advance hu h) h

/-- `flushda` and `initda`: a translation, then an operation on the line. -/
theorem ExecNext.of_cacheOp {va : Word} {kind : AccessKind} {op : Nat → State → Flow Unit}
    (hop : ∀ p u, (op p u).Inside u)
    (h : ((cacheOpTranslate va kind s).bind fun p u => (op p u).bind fun _ w => .next w.advance) = .next t) :
    ExecNext s t :=
  .of_bind ((cacheOpTranslate_within va kind s).inside (cacheOpTranslate_linesWhole va kind))
    (fun p u hu h => .of_bind ((hop p u).mono hu) (fun _ _ hw h => .of_advance hw h) h) h

/-! ### The instructions -/

/-- The target of `call` and `jmpi` is an instruction address (45_program_control.md R369). -/
theorem callTarget_aligned (s : State) (imm26 : BitVec 26) : field (s.callTarget imm26) 0 2 = 0#2 := by
  rw [State.callTarget, field_or, field_place_above _ _ _ _ (by omega), field_place_above _ _ _ _ (by omega)]
  rfl

theorem ExecNext.of_callr {a : RegIdx} (h : execCallr a s = .next t) : ExecNext s t := by
  rcases transfer_cases h with ⟨ha, rfl⟩ | ⟨-, -, rfl⟩
  · exact .wrote _ _ _ (Inside.refl s) (.inr ha)
  · exact .raised _ (Inside.refl s)

theorem ExecNext.of_jmp {a : RegIdx} (h : execJmp a s = .next t) : ExecNext s t := by
  unfold execJmp at h
  split at h
  · exact .of_transfer h
  · cases h

theorem ExecNext.of_custom {n : BitVec 8} {readra readrb writerc : Bool} {c a b : RegIdx}
    (h : execCustom n readra readrb writerc c a b s = .next t) : ExecNext s t := by
  unfold execCustom at h
  cases writerc
  · injection h with h
    exact h ▸ .custom _ 0#5 0#32
  · injection h with h
    exact h ▸ .custom _ c _

/-- Writing a control register ends the step in one case only (U3). -/
theorem writeCtl_stop {n : BitVec 5} {v : Word} {o : Result} (h : s.writeCtl n v = .stop o) : o = .fault .mpuReadAndWrite := by
  have hacc : ∀ o, s.writeMpuacc v = .stop o → o = .fault .mpuReadAndWrite := fun o h => by
    unfold State.writeMpuacc at h
    split at h
    · split at h
      · injection h with h
        exact h.symm
      · cases h
    · dsimp only at h
      split at h <;> cases h
  unfold State.writeCtl at h
  split at h
  case h_11 =>
    split at h
    · exact hacc o h
    · cases h
  all_goals cases h

theorem ExecNext.of_wrctl {n : BitVec 5} {a : RegIdx} (h : execWrctl n a s = .next t) : ExecNext s t := by
  refine .of_supervisorOnly (fun hU h => ?_) h
  cases hw : s.writeCtl n (s.reg a) with
  | ok _ u =>
    rw [hw] at h
    injection h with h
    exact h ▸ .wroteControl n _ hU hw
  | stop o =>
    rw [hw, writeCtl_stop hw] at h
    cases h

/-- Everything that an instruction can do. -/
theorem exec_next {i : Instr} (h : exec i s = .next t) : ExecNext s t := by
  cases i with
  | ldb | ldbio | ldbu | ldbuio | ldh | ldhio | ldhu | ldhuio | ldw | ldwio => exact .of_opLoad h
  | stb | stbio | sth | sthio | stw | stwio => exact .of_opStore (by decide) h
  | add | addi | sub | and | andi | andhi | or | ori | orhi | xor | xori | xorhi | nor
  | cmpeq | cmpne | cmpge | cmpgeu | cmplt | cmpltu | cmpeqi | cmpnei | cmpgei | cmpgeui | cmplti | cmpltui
  | rol | roli | ror | sll | slli | srl | srli | sra | srai | nextpc => exact .of_finish (Inside.refl s) h
  | mul | muli | mulxss | mulxsu | mulxuu => exact .of_whenImplemented (.of_finish (Inside.refl s)) h
  | div | divu => exact .of_opDivide h
  | br | ret => exact .of_transfer h
  | call imm26 =>
    injection h with h
    exact h ▸ .wrote _ _ _ (Inside.refl s) (.inr (callTarget_aligned s imm26))
  | callr => exact .of_callr h
  | jmp => exact .of_jmp h
  | jmpi imm26 =>
    injection h with h
    exact h ▸ .moved _ (Inside.refl s) (.inr (callTarget_aligned s imm26))
  | beq | bne | bge | bgeu | blt | bltu => exact .of_opBranch h
  | trap => exact .of_raise (Inside.refl s) h
  | eret | bret => exact .of_supervisorOnly (fun hU h => .of_return hU h) h
  | brk =>
    injection h with h
    exact h ▸ .broke
  | rdctl c n =>
    refine .of_supervisorOnly (fun hU h => ?_) h
    injection h with h
    exact h ▸ .readControl n c _ hU
  | wrctl => exact .of_wrctl h
  | flushd => exact .of_advance ⟨inner_dcacheFlushLine s _, fun hl => hl.dcacheFlushLine _⟩ h
  | flushda a imm16 =>
    exact .of_cacheOp (fun p u => (dcacheFlushAddr_within _ p u).inside (dcacheFlushAddr_linesWhole _ p)) h
  | initd =>
    exact .of_supervisorOnly (fun _ h => .of_advance ⟨inner_dcacheInitLine s _, fun hl => hl.dcacheInitLine _⟩ h) h
  | initda =>
    exact .of_whenImplemented
      (.of_cacheOp fun p u => (dcacheInitAddr_within _ p u).inside (dcacheInitAddr_linesWhole _ p)) h
  | flushi => exact .of_advance ⟨inner_icacheInvalidateLine s _, fun hl => hl.icacheInvalidateLine _⟩ h
  | initi =>
    exact .of_supervisorOnly
      (fun _ h => .of_advance ⟨inner_icacheInvalidateLine s _, fun hl => hl.icacheInvalidateLine _⟩ h) h
  | flushp =>
    injection h with h
    exact h ▸ .flushed
  | sync => exact .of_advance (Inside.refl s) h
  | rdprs => exact .of_previousSetAccess (fun _ h => .of_finish (Inside.refl s) h) h
  | wrprs c a =>
    refine .of_previousSetAccess (fun hU h => ?_) h
    injection h with h
    exact h ▸ .wrotePrevious c _ hU
  | custom => exact .of_custom h

end

end Sys2Proof.Machine

/-! ## Every step keeps the tables, the configuration and the inputs (O58) -/

namespace Sys2Proof.Machine

open Sys2Proof

/-- From `s` to `t` the configuration, the inputs and the size of every table stay, and no old instruction word and no broken
line comes where none was: what every part of a step but a reset and a hardware break does. -/
structure Keeps (s t : State) : Prop where
  cfg : t.cfg = s.cfg
  irq : t.irq = s.irq
  eic : t.eic = s.eic
  resetPin : t.resetPin = s.resetPin
  cpuResetRequest : t.cpuResetRequest = s.cpuResetRequest
  resetReq : t.resetReq = s.resetReq
  hwBreak : t.hwBreak = s.hwBreak
  debugReq : t.debugReq = s.debugReq
  shadowLength : t.shadow.length = s.shadow.length
  tlbLength : t.tlb.length = s.tlb.length
  iregionsLength : t.iregions.length = s.iregions.length
  dregionsLength : t.dregions.length = s.dregions.length
  icacheLength : t.icache.length = s.icache.length
  dcacheLength : t.dcache.length = s.dcache.length
  prefetchedNone : s.cfg.prefetches = false → s.prefetched = [] → t.prefetched = []
  readAheadNone : s.cfg.icacheSize = 0 → s.readAhead = [] → t.readAhead = []
  linesWhole : s.LinesWhole → t.LinesWhole

theorem Keeps.refl (s : State) : Keeps s s :=
  ⟨rfl, rfl, rfl, rfl, rfl, rfl, rfl, rfl, rfl, rfl, rfl, rfl, rfl, rfl, fun _ => id, fun _ => id, id⟩

section

variable {s t u : State}

theorem Keeps.trans (h : Keeps s t) (g : Keeps t u) : Keeps s u where
  cfg := g.cfg.trans h.cfg
  irq := g.irq.trans h.irq
  eic := g.eic.trans h.eic
  resetPin := g.resetPin.trans h.resetPin
  cpuResetRequest := g.cpuResetRequest.trans h.cpuResetRequest
  resetReq := g.resetReq.trans h.resetReq
  hwBreak := g.hwBreak.trans h.hwBreak
  debugReq := g.debugReq.trans h.debugReq
  shadowLength := g.shadowLength.trans h.shadowLength
  tlbLength := g.tlbLength.trans h.tlbLength
  iregionsLength := g.iregionsLength.trans h.iregionsLength
  dregionsLength := g.dregionsLength.trans h.dregionsLength
  icacheLength := g.icacheLength.trans h.icacheLength
  dcacheLength := g.dcacheLength.trans h.dcacheLength
  prefetchedNone := fun c p => g.prefetchedNone (h.cfg ▸ c) (h.prefetchedNone c p)
  readAheadNone := fun c p => g.readAheadNone (h.cfg ▸ c) (h.readAheadNone c p)
  linesWhole := fun w => g.linesWhole (h.linesWhole w)

theorem Inside.keeps (h : Inside s t) : Keeps s t where
  cfg := h.cfg
  irq := h.irq
  eic := h.eic
  resetPin := h.resetPin
  cpuResetRequest := h.cpuResetRequest
  resetReq := h.resetReq
  hwBreak := h.hwBreak
  debugReq := h.debugReq
  shadowLength := congrArg List.length h.shadow
  tlbLength := h.tlbLength
  iregionsLength := congrArg List.length h.iregions
  dregionsLength := congrArg List.length h.dregions
  icacheLength := h.icacheLength
  dcacheLength := h.dcacheLength
  prefetchedNone := fun c p => (h.prefetchedNone c).trans p
  readAheadNone := fun c p => (h.readAheadNone c).trans p
  linesWhole := h.linesWhole

theorem Keeps.shaped (h : Keeps s t) (hs : s.Shaped) : t.Shaped := by
  obtain ⟨shadow, tlb, iregions, dregions, icache, dcache, prefetched, readAhead⟩ := hs
  unfold State.Shaped
  rw [h.cfg]
  exact ⟨h.shadowLength.trans shadow, h.tlbLength.trans tlb, h.iregionsLength.trans iregions,
    h.dregionsLength.trans dregions, h.icacheLength.trans icache, h.dcacheLength.trans dcache,
    fun c => h.prefetchedNone c (prefetched c), fun c => h.readAheadNone c (readAhead c)⟩

/-! ### The shared operations -/

theorem Keeps.setPc (h : Keeps s t) (pc : Word) : Keeps s { t with pc := pc } := { h with }

theorem Keeps.advance (h : Keeps s t) : Keeps s t.advance := h.setPc _

theorem Keeps.signal (h : Keeps s t) (n : Nat) : Keeps s (t.signal n) := { h with }

theorem Keeps.drawn (h : Keeps s t) : Keeps s t.drawn := { h with }

theorem Keeps.pipelineFlushed (h : Keeps s t) : Keeps s t.pipelineFlushed := { h with prefetchedNone := fun _ _ => rfl }

theorem storeGpr_keeps (s : State) (set : Nat) (r : RegIdx) (v : Word) : Keeps s (s.storeGpr set r v) := by
  unfold State.storeGpr
  split
  · exact { Keeps.refl s with }
  · exact { Keeps.refl s with shadowLength := List.length_modify .. }

theorem setGpr_keeps (s : State) (set : Nat) (r : RegIdx) (v : Word) : Keeps s (s.setGpr set r v) := by
  rw [s.setGpr_only]
  exact { Keeps.refl s with shadowLength := s.setGpr_shadow_length set r v }

theorem setReg_keeps (s : State) (r : RegIdx) (v : Word) : Keeps s (s.setReg r v) := by
  rw [s.setReg_only]
  exact { Keeps.refl s with shadowLength := s.setReg_shadow_length r v }

theorem setLoaded_keeps (s : State) (r : RegIdx) (v : Word) : Keeps s (s.setLoaded r v) := by
  rw [s.setLoaded_only]
  exact { Keeps.refl s with shadowLength := s.setLoaded_shadow_length r v }

theorem take_keeps (s : State) (x : Exc) : Keeps s (s.take x) := by
  have hsave : Keeps s (s.saveForEntry s.nextPc) := by
    unfold State.saveForEntry
    split
    · exact Keeps.refl s
    · exact { setGpr_keeps s 0 29#5 s.nextPc with }
  rw [State.take, State.nonbreakEntry_only]
  exact { Keeps.refl s with shadowLength := hsave.shadowLength, prefetchedNone := fun _ _ => rfl }

theorem breakEntry_keeps (s : State) : Keeps s s.breakEntry := by
  rw [s.breakEntry_only]
  exact { Keeps.refl s with
    shadowLength := s.setGpr_shadow_length 0 30#5 s.nextPc, prefetchedNone := fun _ _ => rfl }

theorem interruptEntry_keeps (s : State) (q : EicRequest) : Keeps s (s.interruptEntry q) := by
  have hsave : Keeps s (s.saveForInterrupt q) := by
    unfold State.saveForInterrupt
    split
    · exact Keeps.refl s
    · split
      · exact { setGpr_keeps s 0 29#5 s.nextPc with }
      · exact (setGpr_keeps _ _ _ _).trans (setGpr_keeps _ _ _ _)
  exact { hsave.pipelineFlushed with }

/-! ### Control registers -/

theorem injectionDone_keeps (s : State) (lo : Nat) : Keeps s (s.injectionDone lo) := by
  rw [s.injectionDone_only]
  exact { Keeps.refl s with }

theorem ctlRead_keeps (s : State) (n : BitVec 5) : Keeps s (s.ctlRead n) := by
  unfold State.ctlRead
  split
  · exact { Keeps.refl s with }
  · exact Keeps.refl s

theorem writeTlbacc_keeps (s : State) (v : Word) : Keeps s (s.writeTlbacc v) := by
  have hacc : Keeps s { s with tlbacc := v &&& 0x01FFFFFF#32 } := { Keeps.refl s with }
  unfold State.writeTlbacc
  dsimp only
  split
  · split
    · have hinj := hacc.trans (injectionDone_keeps _ injTlb)
      exact { hinj with tlbLength := List.length_set .. }
    · exact { hacc with }
  · exact hacc

theorem readTlb_keeps (s : State) : Keeps s s.readTlb := by
  unfold State.readTlb
  split
  · dsimp only
    split <;> exact { Keeps.refl s with }
  · exact { Keeps.refl s with }

theorem writeTlbmisc_keeps (s : State) (v : Word) : Keeps s (s.writeTlbmisc v) := by
  have hmisc : Keeps s { s with tlbmisc := s.tlbmiscWritten v } := { Keeps.refl s with }
  unfold State.writeTlbmisc
  dsimp only
  split
  · exact hmisc.trans (readTlb_keeps _)
  · exact hmisc

theorem mpuRegionWrite_keeps (s : State) : Keeps s s.mpuRegionWrite := by
  unfold State.mpuRegionWrite
  dsimp only
  split
  · exact { Keeps.refl s with dregionsLength := List.length_set .. }
  · exact { Keeps.refl s with iregionsLength := List.length_set .. }

theorem mpuRegionRead_keeps (s : State) : Keeps s s.mpuRegionRead := by
  unfold State.mpuRegionRead
  split <;> exact { Keeps.refl s with }

theorem Keeps.of_ok (h : (.ok () t : Flow Unit) = .ok () u) (ht : Keeps s t) : Keeps s u := by
  injection h with _ h
  exact h ▸ ht

theorem writeMpuacc_keeps {v : Word} (h : s.writeMpuacc v = .ok () u) : Keeps s u := by
  have hacc : Keeps s { s with mpuacc := mpuaccWritten s.cfg s.mpuD v } := { Keeps.refl s with }
  unfold State.writeMpuacc at h
  split at h
  · split at h
    · cases h
    · exact .of_ok h (mpuRegionRead_keeps s)
  · dsimp only at h
    split at h
    · exact .of_ok h (hacc.trans (mpuRegionWrite_keeps _))
    · exact .of_ok h hacc

theorem Keeps.of_writeWhen {present : Bool} (h : writeWhen present s t = .ok () u) (ht : Keeps s t) : Keeps s u := by
  cases present
  · exact .of_ok h (Keeps.refl s)
  · exact .of_ok h ht

/-- One case for each register, in the order of their numbers. -/
theorem writeCtl_keeps {n : BitVec 5} {v : Word} (h : s.writeCtl n v = .ok () u) : Keeps s u := by
  unfold State.writeCtl at h
  split at h
  · exact .of_ok h { Keeps.refl s with }
  · exact .of_ok h { Keeps.refl s with }
  · exact .of_ok h { Keeps.refl s with }
  · exact .of_writeWhen h { Keeps.refl s with }
  · exact .of_writeWhen h { Keeps.refl s with }
  · exact .of_writeWhen h (writeTlbacc_keeps s v)
  · exact .of_writeWhen h (writeTlbmisc_keeps s v)
  · exact .of_writeWhen h { Keeps.refl s with }
  · exact .of_ok h { Keeps.refl s with }
  · exact .of_writeWhen h { Keeps.refl s with }
  · split at h
    · exact writeMpuacc_keeps h
    · exact .of_ok h (Keeps.refl s)
  · exact .of_ok h (Keeps.refl s)

theorem flushedBy_keeps (s : State) (n : BitVec 5) : Keeps s (s.flushedBy n) := by
  unfold State.flushedBy
  split
  · exact Keeps.refl s
  · exact (Keeps.refl s).pipelineFlushed

/-! ### An instruction -/

theorem ExecNext.keeps (h : ExecNext s t) : Keeps s t := by
  cases h with
  | raised x hu => exact hu.keeps.trans (take_keeps _ x)
  | moved pc hu => exact hu.keeps.setPc pc
  | wrote r v pc hu => exact (hu.keeps.trans (setReg_keeps _ r v)).setPc pc
  | loaded r v hu => exact (hu.keeps.trans (setLoaded_keeps _ r v)).advance
  | custom logic r v =>
    have hlogic : Keeps s { s with customState := logic } := { Keeps.refl s with }
    exact (hlogic.trans (setReg_keeps _ r v)).advance
  | readControl n r v => exact ((ctlRead_keeps s n).trans (setReg_keeps _ r v)).advance
  | wroteControl n v _ hw => exact ((writeCtl_keeps hw).trans (flushedBy_keeps _ n)).advance
  | wrotePrevious r v => exact (setGpr_keeps s s.prs r v).pipelineFlushed.advance
  | flushed => exact (Keeps.refl s).pipelineFlushed.advance
  | returned saved pc debug => exact { (Keeps.refl s).pipelineFlushed with }
  | broke => exact breakEntry_keeps s

/-! ### A step -/

/-- Every next state that the answer gives keeps what `Keeps` says of `s`. -/
def Kept (s : State) (r : Result) : Prop := ∀ t, r = .next t → Keeps s t

theorem Kept.next (h : Keeps s t) : Kept s (.next t) := fun u hu => by
  injection hu with hu
  exact hu ▸ h

theorem Kept.raise (h : Keeps s u) (x : Exc) : Kept s (raise x u) := .next (h.trans (take_keeps u x))

theorem Kept.fault (f : Fault) : Kept s (.fault f) := fun _ h => by cases h

theorem Kept.refused (r : Refusal) : Kept s (.refused r) := fun _ h => by cases h

theorem Kept.mono {r : Result} (h : Keeps s u) (hr : Kept u r) : Kept s r := fun t ht => h.trans (hr t ht)

theorem exec_kept (i : Instr) (s : State) : Kept s (exec i s) := fun _ h => (exec_next h).keeps

theorem illegalInstruction_kept (s : State) : Kept s (illegalInstruction s) := by
  unfold illegalInstruction
  split
  · exact .raise (Keeps.refl s) _
  · exact .fault _

/-- As `Flow.Inside`, for parts that may change registers too. -/
def Flow.Keeps {α : Type} (s : State) (m : Flow α) : Prop :=
  match m with
  | .ok _ t => Machine.Keeps s t
  | .stop o => Kept s o

theorem Flow.Inside.keeps {α : Type} {m : Flow α} (h : m.Inside s) : m.Keeps s := by
  cases m with
  | ok a u => exact Machine.Inside.keeps h
  | stop o =>
    rcases h with ⟨x, u, hu, rfl⟩ | ⟨f, rfl⟩
    · exact .raise hu.keeps x
    · exact .fault f

theorem Flow.Keeps.mono {α : Type} {m : Flow α} (h : Machine.Keeps s u) (hm : m.Keeps u) : m.Keeps s := by
  cases m with
  | ok a w => exact h.trans hm
  | stop o => exact Kept.mono h hm

theorem Flow.keeps_raise {α : Type} (x : Exc) (h : Machine.Keeps s u) : (.stop (raise x u) : Flow α).Keeps s :=
  Kept.raise h x

theorem Flow.Keeps.bind {α : Type} {m : Flow α} {k : α → State → Result} (hm : m.Keeps s)
    (hk : ∀ a u, Machine.Keeps s u → Kept s (k a u)) : Kept s (m.bind k) := by
  cases m with
  | ok a u => exact hk a u hm
  | stop o => exact hm

theorem Flow.Keeps.andThen {α β : Type} {m : Flow α} {k : α → State → Flow β} (hm : m.Keeps s)
    (hk : ∀ a u, (k a u).Keeps u) : (m.andThen k).Keeps s := by
  cases m with
  | ok a u => exact .mono hm (hk a u)
  | stop o => exact hm

theorem readSource_keeps (r : RegRef) (s : State) : (readSource r s).Keeps s := by
  unfold readSource
  split
  · exact Keeps.refl s
  · exact { storeGpr_keeps s r.1 r.2 _ with }
  · exact Flow.keeps_raise _ ((Keeps.refl s).signal 2)
  · exact (storeGpr_keeps s r.1 r.2 _).drawn.signal 2

theorem readSources_keeps (rs : List RegRef) (s : State) : (readSources rs s).Keeps s := by
  induction rs generalizing s with
  | nil => exact Keeps.refl s
  | cons r rs ih => exact (readSource_keeps r s).andThen fun _ u => ih u

theorem takeLate_keeps (s : State) (x : LateExc) : Keeps s (s.takeLate x) := by
  cases x with
  | mpuInstr => exact take_keeps s _
  | eccFetch k => exact ((Keeps.refl s).signal _).trans (take_keeps _ _)

theorem runDecoded_kept (i : Instr) (f : Fetched) (s : State) : Kept s (runDecoded i f s) := by
  unfold runDecoded
  refine (readSources_keeps _ s).bind fun _ u hu => ?_
  split
  · exact .next (hu.trans (takeLate_keeps u _))
  · split
    · have hrun : Keeps s (if trapsAtDecode i s then s else u) := by
        split
        · exact Keeps.refl s
        · exact hu
      exact .mono hrun (exec_kept i _)
    · exact .refused _

theorem runUndecoded_kept (f : Fetched) (s : State) : Kept s (runUndecoded f s) := by
  unfold runUndecoded
  split
  · exact .next (takeLate_keeps s _)
  · split
    · exact .fault _
    · exact illegalInstruction_kept s

theorem runWord_kept (f : Fetched) (s : State) : Kept s (runWord f s) := by
  unfold runWord
  split
  · exact runDecoded_kept _ f s
  · exact runUndecoded_kept f s

theorem fetchAndRun_kept (s : State) : Kept s (fetchAndRun s) := by
  unfold fetchAndRun
  split
  · exact ((fetch_within s).inside fetch_linesWhole).keeps.bind fun f u hu => .mono hu (runWord_kept f u)
  · exact .fault _

theorem takeExternal_kept (s : State) : Kept s (takeExternal s) := by
  unfold takeExternal
  split
  · exact .next (interruptEntry_keeps s _)
  · exact .refused _

theorem interruptOrRun_kept (s : State) : Kept s (interruptOrRun s) := by
  unfold interruptOrRun
  split
  · exact .raise (Keeps.refl s) _
  · split
    · exact takeExternal_kept s
    · exact fetchAndRun_kept s

theorem writebackOr_kept (s : State) : Kept s (writebackOr s interruptOrRun) := by
  have hd : Keeps s s.drawn := (Keeps.refl s).drawn
  unfold writebackOr
  split
  · split
    · have hw : Keeps s { s.drawn with wbError := false } := { hd with }
      exact .raise hw _
    · exact .mono hd (interruptOrRun_kept _)
  · exact interruptOrRun_kept s

/-- A boundary resets the machine, with memory and its marks or without, takes a hardware break, whose request it consumes, or
keeps everything that `Keeps` names (60_exceptions.md R440, 70_reset_and_hazards.md R520, R522). -/
theorem boundary_next (h : boundary s = .next t) :
    (∃ mem marks, t = { s.resetCore with mem := mem, tcmEcc := marks }) ∨ t = { s.breakEntry with hwBreak := false } ∨
      Keeps s t := by
  unfold boundary at h
  split at h
  · injection h with h
    rw [← h, State.resetAll]
    exact .inl ⟨_, _, rfl⟩
  · split at h
    · cases h
    · split at h
      · injection h with h
        exact .inr (.inl h.symm)
      · split at h
        · injection h with h
          exact .inl ⟨s.mem, s.tcmEcc, h.symm⟩
        · exact .inr (.inr (writebackOr_kept s t h))

end

/-! ### Reset -/

theorem length_map_range {α : Type} (f : Nat → α) (n : Nat) : ((List.range n).map f).length = n := by simp

/-- Reset leaves every table at the size of its parameter (70_reset_and_hazards.md R520, log 42). -/
theorem resetCore_shaped (s : State) : s.resetCore.Shaped :=
  ⟨length_map_range _ _, length_ite_nil (length_map_range _ _), length_ite_nil (length_map_range _ _),
    length_ite_nil (length_map_range _ _), (List.length_modify ..).trans (length_map_range _ _), length_map_range _ _,
    fun _ => rfl, fun _ => rfl⟩

theorem freeLine_data_length (c : Config) (dirty : Bool) (n draw i : Nat) : (freeLine c dirty n draw i).data.length = 32 :=
  length_map_range _ _

/-- What holds of every element, and of its image, holds after one element is replaced by its image. -/
theorem forall_mem_modify {α : Type} {p : α → Prop} {f : α → α} {l : List α} (i : Nat) (h : ∀ x ∈ l, p x)
    (hf : ∀ x, p x → p (f x)) : ∀ x ∈ l.modify i f, p x := by
  intro x hx
  obtain ⟨j, hj, rfl⟩ := List.getElem_of_mem hx
  rw [List.getElem_modify]
  split
  · exact hf _ (h _ (List.getElem_mem _))
  · exact h _ (List.getElem_mem _)

theorem resetCore_linesWhole (s : State) : s.resetCore.LinesWhole := by
  have hline : ∀ dirty n draw, ∀ l ∈ (List.range n).map (freeLine s.cfg dirty n draw), l.data.length = 32 := by
    intro dirty n draw l hl
    obtain ⟨i, -, rfl⟩ := List.mem_map.1 hl
    exact freeLine_data_length ..
  exact ⟨forall_mem_modify _ (hline false _ _) fun _ h => h, hline true _ _⟩

/-- Settles O58: a reset gives every table its size anew, a hardware break and everything else keep them. -/
theorem stepKeepsShape : Obligations.StepKeepsShape := by
  intro s t hs hl h
  rcases boundary_next h with ⟨mem, marks, rfl⟩ | rfl | hk
  · exact ⟨resetCore_shaped { s with eccBus := 0#30 }, resetCore_linesWhole { s with eccBus := 0#30 }, rfl, rfl, rfl, rfl,
      rfl, rfl, .inl rfl, .inr rfl⟩
  · have hk := breakEntry_keeps { s with eccBus := 0#30 }
    exact ⟨hk.shaped hs, hk.linesWhole hl, hk.cfg, hk.irq, hk.resetPin, hk.cpuResetRequest, hk.resetReq, hk.debugReq,
      .inr rfl, .inl hk.eic⟩
  · exact ⟨hk.shaped hs, hk.linesWhole hl, hk.cfg, hk.irq, hk.resetPin, hk.cpuResetRequest, hk.resetReq, hk.debugReq,
      .inl hk.hwBreak, .inl hk.eic⟩

end Sys2Proof.Machine

/-! ## What a core without ECC leaves of the TLB, of `eccinj` and of ECCFTL

`Inner` leaves the entries of the TLB and the injection fields free, and says of an exception only that it is one. This layer adds
that without ECC only `wrctl` writes the TLB and `eccinj`, and that nothing sets `exception.ECCFTL` (10_state.md R48, R68,
60_exceptions.md R457, R491, R495). -/

namespace Sys2Proof.Machine

open Sys2Proof

/-- From `s` to `t` the configuration stays and, on a core without ECC, the TLB, `eccinj` and a clear ECCFTL. -/
structure NoEccFrame (s t : State) : Prop where
  cfg : t.cfg = s.cfg
  tlb : s.cfg.ecc = false → t.tlb = s.tlb
  eccinj : s.cfg.ecc = false → t.eccinj = s.eccinj
  eccftl : s.cfg.ecc = false → bit s.exception 31 = false → bit t.exception 31 = false

/-- As `Flow.LinesWhole`: the frame holds of the state that a part of an instruction answers, or in which it ends the step. -/
def Flow.NoEccFrame {α : Type} (s : State) (m : Flow α) : Prop :=
  match m with
  | .ok _ t => Machine.NoEccFrame s t
  | .stop o => ∀ t, o = .next t → Machine.NoEccFrame s t

section

variable {s t u : State}

namespace NoEccFrame

theorem refl (s : State) : NoEccFrame s s := ⟨rfl, fun _ => rfl, fun _ => rfl, fun _ => id⟩

theorem trans (h : NoEccFrame s t) (g : NoEccFrame t u) : NoEccFrame s u where
  cfg := g.cfg.trans h.cfg
  tlb := fun he => (g.tlb (h.cfg ▸ he)).trans (h.tlb he)
  eccinj := fun he => (g.eccinj (h.cfg ▸ he)).trans (h.eccinj he)
  eccftl := fun he hx => g.eccftl (h.cfg ▸ he) (h.eccftl he hx)

/-- A change of anything else. -/
theorem elsewhere (h : NoEccFrame s t) (hc : u.cfg = t.cfg) (ht : u.tlb = t.tlb) (hi : u.eccinj = t.eccinj)
    (hx : u.exception = t.exception) : NoEccFrame s u :=
  h.trans ⟨hc, fun _ => ht, fun _ => hi, fun _ => hx ▸ id⟩

/-! ### The plain updates -/

theorem drawn (h : NoEccFrame s t) : NoEccFrame s t.drawn := { h with }

theorem signal (h : NoEccFrame s t) (n : Nat) : NoEccFrame s (t.signal n) := { h with }

theorem flags (h : NoEccFrame s t) (b : Bool) (n : Nat) : NoEccFrame s { t with wbError := b, draws := n } := { h with }

theorem wbErrorSet (h : NoEccFrame s t) : NoEccFrame s { t with wbError := true } := { h with }

theorem setPc (h : NoEccFrame s t) (pc : Word) : NoEccFrame s { t with pc := pc } := { h with }

theorem advance (h : NoEccFrame s t) : NoEccFrame s t.advance := h.setPc _

theorem pipelineFlushed (h : NoEccFrame s t) : NoEccFrame s t.pipelineFlushed := { h with }

theorem setDline (h : NoEccFrame s t) (i : Nat) (l : CacheLine) : NoEccFrame s (t.setDline i l) := { h with }

theorem setIline (h : NoEccFrame s t) (i : Nat) (l : CacheLine) : NoEccFrame s (t.setIline i l) := { h with }

theorem injectionDone (h : NoEccFrame s t) (lo : Nat) : NoEccFrame s (t.injectionDone lo) :=
  h.trans {
    cfg := t.injectionDone_cfg lo
    tlb := fun _ => t.injectionDone_tlb lo
    eccinj := fun he => congrArg State.eccinj (t.injectionDone_noEcc lo he)
    eccftl := fun _ hx => (congrArg (bit · 31) (t.injectionDone_exception lo)).trans hx }

theorem busReadState (h : NoEccFrame s t) (ram : Nat → Bool) (a n : Nat) : NoEccFrame s (busReadState ram t a n) := by
  unfold Machine.busReadState
  split
  · exact h
  · exact h.drawn

theorem keepPrefetched (h : NoEccFrame s u) (ks : List Nat) : NoEccFrame s (t.keepPrefetched u ks) :=
  h.elsewhere (by simp) (by simp) (by simp) (by simp)

theorem busWrite (h : NoEccFrame s t) (a : Nat) (bs : List Byte) : NoEccFrame s (t.busWrite a bs) :=
  h.elsewhere (t.busWriteTo_cfg _ _ a bs) (t.busWriteTo_tlb _ _ a bs) (t.busWriteTo_eccinj _ _ a bs)
    (t.busWriteTo_exception _ _ a bs)

theorem lineWrite (h : NoEccFrame s t) (a : Nat) (bs : List Byte) : NoEccFrame s (t.lineWrite a bs) :=
  h.elsewhere (t.busWriteTo_cfg _ _ a bs) (t.busWriteTo_tlb _ _ a bs) (t.busWriteTo_eccinj _ _ a bs)
    (t.busWriteTo_exception _ _ a bs)

theorem tcmWrite (h : NoEccFrame s t) (k a : Nat) (bs : List Byte) : NoEccFrame s (t.tcmWrite k a bs) := by
  unfold State.tcmWrite
  split
  · refine injectionDone (keepPrefetched (h.elsewhere ?_ ?_ ?_ ?_) _) _ <;> simp [State.flipTcm]
  · exact h.busWrite a bs

/-! ### Registers -/

theorem setGpr (h : NoEccFrame s t) (set : Nat) (r : RegIdx) (v : Word) : NoEccFrame s (t.setGpr set r v) :=
  h.trans {
    cfg := t.setGpr_cfg set r v
    tlb := fun _ => t.setGpr_tlb set r v
    eccinj := fun he => by
      by_cases hz : set = 0 ∧ r = 0#5
      · simp [State.setGpr, hz]
      · simp [t.setGpr_eccinj set r v hz, he]
    eccftl := fun _ hx => (congrArg (bit · 31) (t.setGpr_exception set r v)).trans hx }

theorem setReg (h : NoEccFrame s t) (r : RegIdx) (v : Word) : NoEccFrame s (t.setReg r v) := by
  unfold State.setReg
  split
  · exact h
  · exact h.setGpr _ r v

theorem setLoaded (h : NoEccFrame s t) (r : RegIdx) (v : Word) : NoEccFrame s (t.setLoaded r v) := by
  unfold State.setLoaded
  split
  · exact h.setGpr _ r v
  · exact h.setReg r v

/-! ### The data cache -/

theorem dtagRead (h : NoEccFrame s t) (i : Nat) (l : CacheLine) : NoEccFrame s (t.dtagRead i l) := by
  unfold State.dtagRead
  split
  · exact h
  · exact (h.setDline i _).signal 13
  · exact h.drawn.signal 14
  · exact h.drawn.signal 14

theorem writeBack (h : NoEccFrame s t) (l : CacheLine) : NoEccFrame s (t.writeBack l) := by
  unfold State.writeBack
  dsimp only
  split
  · exact ((h.injectionDone _).flags _ _).lineWrite _ _
  · exact (((h.injectionDone _).flags _ _).lineWrite _ _).signal 17
  · exact ((((h.injectionDone _).flags _ _).lineWrite _ _).drawn.signal 18).wbErrorSet
  · exact (((h.injectionDone _).flags _ _).lineWrite _ _).drawn.signal 18

theorem evict (h : NoEccFrame s t) (i : Nat) : NoEccFrame s (t.evict i) := by
  unfold State.evict
  split
  · exact h.writeBack _
  · exact h

theorem dfill (h : NoEccFrame s t) (i a : Nat) : NoEccFrame s (t.dfill i a) :=
  (((h.busReadState _ _ _).setDline i _).injectionDone _).injectionDone _

theorem dstore (h : NoEccFrame s t) (i a : Nat) (bs : List Byte) : NoEccFrame s (t.dstore i a bs) := by
  unfold State.dstore
  dsimp only
  split
  · exact (h.injectionDone _).setDline i _
  · exact ((h.injectionDone _).injectionDone _).setDline i _

theorem dinvalidate (h : NoEccFrame s t) (i : Nat) : NoEccFrame s (t.dinvalidate i) :=
  (h.setDline i _).injectionDone _

theorem dcacheFlushLine (h : NoEccFrame s t) (addr : Word) : NoEccFrame s (t.dcacheFlushLine addr) := by
  unfold State.dcacheFlushLine
  split
  · exact h
  · refine (evict ?_ _).dinvalidate _
    split
    · exact h.dtagRead _ _
    · exact h

theorem dcacheInitLine (h : NoEccFrame s t) (addr : Word) : NoEccFrame s (t.dcacheInitLine addr) := by
  unfold State.dcacheInitLine
  split
  · exact h
  · exact h.dinvalidate _

/-- A misaligned store with the check off. -/
theorem scramble (h : NoEccFrame s t) (io : Bool) (va : Word) (n : Nat) : NoEccFrame s (t.scramble io va n) := by
  unfold State.scramble
  dsimp only
  split
  · exact { h with }
  · exact { h with }

/-! ### The instruction cache -/

theorem ifill (h : NoEccFrame s t) (i a : Nat) : NoEccFrame s (t.ifill i a) :=
  (((h.busReadState _ _ _).setIline i _).injectionDone _).injectionDone _

theorem isignal (h : NoEccFrame s t) (l : CacheLine) : NoEccFrame s (t.isignal l) := by
  unfold State.isignal
  dsimp only
  split <;> split <;> exact { h with }

theorem icacheInvalidateLine (h : NoEccFrame s t) (addr : Word) : NoEccFrame s (t.icacheInvalidateLine addr) := by
  unfold State.icacheInvalidateLine
  split
  · exact h
  · exact { h with }

/-! ### The TLB -/

/-- Without ECC no entry has an error to correct. -/
theorem tlbSettled (h : NoEccFrame s t) (vpn : BitVec 20) : NoEccFrame s (t.tlbSettled vpn) := by
  have same : t.cfg.ecc = false → t.tlbSettled vpn = t := fun he => by simp [State.tlbSettled, he]
  exact h.trans {
    cfg := (inner_tlbSettled t vpn).cfg
    tlb := fun he => congrArg State.tlb (same he)
    eccinj := fun he => congrArg State.eccinj (same he)
    eccftl := fun he hx => by rw [same he]; exact hx }

/-! ### Exceptions -/

theorem saveForEntry (h : NoEccFrame s t) (ret : Word) : NoEccFrame s (t.saveForEntry ret) := by
  unfold State.saveForEntry
  split
  · exact h
  · exact { h.setGpr 0 29#5 ret with }

/-- Only an uncorrectable register-file error sets ECCFTL, on a core with ECC (60_exceptions.md R457, R491). -/
theorem bit_exceptionOnEntry {x : Exc} (hx : x ≠ .eccRegisterFile) (s : State) {e : Word} (he : bit e 31 = false) :
    bit (exceptionOnEntry (x.args s) e) 31 = false := by
  have cause : bit (setField e 2 5 (x.args s).cause) 31 = false := (bit_setField_other _ _ _ _ (by omega)).trans he
  unfold exceptionOnEntry
  split
  · next b hb =>
    rw [bit_setBit_same _ _ _ (by omega)]
    cases x <;> simp_all [Exc.args, EntryArgs.plain]
  · exact cause

theorem mmuOnEntry (h : NoEccFrame s t) (y : EntryArgs) (eh : Bool) : NoEccFrame s (t.mmuOnEntry y eh) := by
  unfold State.mmuOnEntry
  split
  · exact { h with }
  · exact h

theorem causeOnEntry (h : NoEccFrame s t) {y : EntryArgs}
    (hy : s.cfg.ecc = false → ∀ e, bit e 31 = false → bit (exceptionOnEntry y e) 31 = false) :
    NoEccFrame s (t.causeOnEntry y) := by
  unfold State.causeOnEntry
  split
  · exact { h with eccftl := fun he hx => hy he _ (h.eccftl he hx) }
  · exact h

theorem eehOnEntry (h : NoEccFrame s t) (y : EntryArgs) (eh : Bool) : NoEccFrame s (t.eehOnEntry y eh) := by
  unfold State.eehOnEntry
  split
  · exact h.signal 0
  · exact h

theorem take (h : NoEccFrame s t) {x : Exc} (hx : x = .eccRegisterFile → s.cfg.ecc = true) : NoEccFrame s (t.take x) := by
  have fatal : s.cfg.ecc = false → ∀ e, bit e 31 = false → bit (exceptionOnEntry (x.args t) e) 31 = false :=
    fun he _ => bit_exceptionOnEntry (fun hx' => Bool.false_ne_true (he.symm.trans (hx hx'))) t
  have entered := ((((h.saveForEntry t.nextPc).mmuOnEntry (x.args t) (stEh t.status)).causeOnEntry fatal).eehOnEntry (x.args t)
    (stEh t.status)).pipelineFlushed
  exact { entered with }

end NoEccFrame

/-! ### The parts of an instruction -/

/-- Of every exception but that of an uncorrectable register-file error. -/
theorem Flow.noEccFrame_raise {α : Type} {x : Exc} (h : Machine.NoEccFrame s t) (hx : x ≠ .eccRegisterFile := by nofun) :
    (.stop (raise x t) : Flow α).NoEccFrame s := fun u hu => by
  injection hu with hu
  exact hu ▸ h.take fun e => absurd e hx

theorem Flow.noEccFrame_fault {α : Type} (f : Fault) : (.stop (.fault f) : Flow α).NoEccFrame s := fun _ hu => by cases hu

theorem Flow.NoEccFrame.andThen {α β : Type} {m : Flow α} {k : α → State → Flow β} (hm : m.NoEccFrame s)
    (hk : ∀ a u, Machine.NoEccFrame s u → (k a u).NoEccFrame s) : (m.andThen k).NoEccFrame s := by
  cases m with
  | ok a u => exact hk a u hm
  | stop o => exact hm

section

variable (h : NoEccFrame s t)

include h

theorem tcmRead_noEccFrame (ram : Nat → Bool) {x : Exc} (re ue a n : Nat) (hx : x ≠ .eccRegisterFile := by nofun) :
    (tcmRead ram x re ue a n t).NoEccFrame s := by
  unfold tcmRead
  split
  · exact h.busReadState ram a n
  · have corrected : NoEccFrame s (t.correctTcm ram a) := { h with }
    exact (corrected.busReadState ram a n).signal re
  · exact Flow.noEccFrame_raise (h.signal ue) hx
  · exact h.drawn.signal ue

theorem dpresent_noEccFrame (va : Word) (i a : Nat) : (dpresent va i a t).NoEccFrame s := by
  have tag := h.dtagRead i (t.dline i)
  unfold dpresent
  dsimp only
  split
  · split
    · exact Flow.noEccFrame_raise tag
    · split
      · exact tag
      · exact (tag.evict i).dfill i a
  · exact h.dfill i a

theorem dcacheRead_noEccFrame (va : Word) (a n : Nat) : (dcacheRead va a n t).NoEccFrame s := by
  unfold dcacheRead
  refine (dpresent_noEccFrame h va _ a).andThen fun filled u hu => ?_
  dsimp only
  split
  · exact hu
  · split
    · exact hu
    · split
      · exact (hu.setDline _ _).signal 15
      · exact (hu.dfill _ a).signal 15
    · exact Flow.noEccFrame_raise (hu.signal 16)
    · exact hu.drawn.signal 16

theorem dcacheWrite_noEccFrame (va : Word) (a : Nat) (bs : List Byte) : (dcacheWrite va a bs t).NoEccFrame s := by
  unfold dcacheWrite
  exact (dpresent_noEccFrame h va _ a).andThen fun _ u hu => hu.dstore _ a bs

theorem dcacheCompare_noEccFrame (addr : Word) (a : Nat) : (dcacheCompare addr a t).NoEccFrame s := by
  unfold dcacheCompare
  dsimp only
  split
  · exact h
  · split
    · exact Flow.noEccFrame_raise (h.dtagRead _ _)
    · exact h.dtagRead _ _

theorem dcacheFlushAddr_noEccFrame (addr : Word) (a : Nat) : (dcacheFlushAddr addr a t).NoEccFrame s := by
  unfold dcacheFlushAddr
  refine (dcacheCompare_noEccFrame h addr a).andThen fun hit u hu => ?_
  cases hit
  · exact hu
  · exact (hu.evict _).dinvalidate _

theorem dcacheInitAddr_noEccFrame (addr : Word) (a : Nat) : (dcacheInitAddr addr a t).NoEccFrame s := by
  unfold dcacheInitAddr
  refine (dcacheCompare_noEccFrame h addr a).andThen fun hit u hu => ?_
  cases hit
  · exact hu
  · exact hu.dinvalidate _

theorem icacheRead_noEccFrame (va : Word) (a : Nat) : (icacheRead va a t).NoEccFrame s := by
  unfold icacheRead
  dsimp only
  split
  · exact h
  · refine NoEccFrame.ifill ?_ _ a
    split
    · exact h.isignal _
    · exact h

theorem tlbLookup_noEccFrame {α : Type} (va : Word) {miss : Exc} {hit : TlbEntry → State → Flow α}
    (hh : ∀ e u, NoEccFrame s u → (hit e u).NoEccFrame s) (hx : miss ≠ .eccRegisterFile := by nofun) :
    (tlbLookup va t miss hit).NoEccFrame s := by
  unfold tlbLookup
  split
  · exact Flow.noEccFrame_raise (h.tlbSettled _) hx
  · exact hh _ _ (h.tlbSettled _)
  · exact Flow.noEccFrame_fault _

theorem mmuFetch_noEccFrame (va : Word) : (mmuFetch va t).NoEccFrame s := by
  unfold mmuFetch
  split
  · split
    · exact Flow.noEccFrame_raise h
    · exact h
  · split
    · exact Flow.noEccFrame_raise (h.tlbSettled _)
    · split
      · exact Flow.noEccFrame_raise h
      · refine tlbLookup_noEccFrame h va fun e u hu => ?_
        split
        · exact hu
        · exact Flow.noEccFrame_raise hu

omit h in
/-- A TLB permission violation is no register-file error. -/
theorem tlbRefuses_ne {kind : AccessKind} {va : Word} {e : TlbEntry} {x : Exc} (hx : tlbRefuses kind va e = some x) :
    x ≠ .eccRegisterFile := by
  rintro rfl
  unfold tlbRefuses at hx
  split at hx
  · split at hx <;> cases hx
  · split at hx <;> cases hx
  · cases hx
  · cases hx

theorem mmuData_noEccFrame (va : Word) (kind : AccessKind) : (mmuData va kind t).NoEccFrame s := by
  unfold mmuData
  split
  · exact h
  · split
    · exact Flow.noEccFrame_raise (h.tlbSettled _)
    · refine tlbLookup_noEccFrame h va fun e u hu => ?_
      split
      · next hx => exact Flow.noEccFrame_raise hu (tlbRefuses_ne hx)
      · exact hu

theorem mpuFetch_noEccFrame (va : Word) : (mpuFetch va t).NoEccFrame s := by
  unfold mpuFetch
  split
  · split
    · split
      · exact Flow.noEccFrame_fault _
      · exact h
      · split
        · exact Flow.noEccFrame_fault _
        · exact h
    · exact h
  · exact h

theorem mpuData_noEccFrame (va : Word) (a : Nat) (kind : AccessKind) : (mpuData va a kind t).NoEccFrame s := by
  unfold mpuData
  split
  · split
    · split
      · exact Flow.noEccFrame_fault _
      · exact Flow.noEccFrame_raise h
      · split
        · exact Flow.noEccFrame_fault _
        · exact h
        · exact Flow.noEccFrame_raise h
    · exact Flow.noEccFrame_raise h
  · exact h

theorem translateData_noEccFrame (va : Word) (kind : AccessKind) : (translateData va kind t).NoEccFrame s := by
  unfold translateData
  split
  · exact mmuData_noEccFrame h va kind
  · refine (mpuData_noEccFrame h va _ kind).andThen fun mt u hu => ?_
    show NoEccFrame s (if _ then _ else _)
    split
    · exact hu.drawn
    · exact hu

theorem userAddressCheck_noEccFrame (va : Word) : (userAddressCheck va t).NoEccFrame s := by
  unfold userAddressCheck
  split
  · exact Flow.noEccFrame_raise h
  · exact h

theorem physRead_noEccFrame (va : Word) (io cacheable : Bool) (a n : Nat) : (physRead va io cacheable a n t).NoEccFrame s := by
  unfold physRead
  split
  · exact tcmRead_noEccFrame h _ _ _ a n
  · split
    · exact dcacheRead_noEccFrame h va a n
    · exact h.busReadState _ a n

theorem physWrite_noEccFrame (va : Word) (io cacheable : Bool) (a : Nat) (bs : List Byte) :
    (physWrite va io cacheable a bs t).NoEccFrame s := by
  unfold physWrite
  split
  · exact h.tcmWrite _ a bs
  · split
    · exact dcacheWrite_noEccFrame h va a bs
    · exact h.busWrite a bs

theorem memRead_noEccFrame (io : Bool) (va : Word) (n : Nat) (extend : Word → Word) :
    (memRead io va n extend t).NoEccFrame s := by
  unfold memRead
  refine (userAddressCheck_noEccFrame h va).andThen fun _ u hu => ?_
  split
  · refine (translateData_noEccFrame hu va .load).andThen fun p v hv => ?_
    refine (physRead_noEccFrame hv va io p.2 p.1 n).andThen fun bs w hw => ?_
    split
    · exact hw
    · exact hw.drawn
  · split
    · exact Flow.noEccFrame_raise hu
    · exact hu.drawn

theorem memWrite_noEccFrame (io : Bool) (va : Word) (n : Nat) (v : Word) : (memWrite io va n v t).NoEccFrame s := by
  unfold memWrite
  refine (userAddressCheck_noEccFrame h va).andThen fun _ u hu => ?_
  split
  · exact (translateData_noEccFrame hu va .store).andThen fun p w hw => physWrite_noEccFrame hw va io p.2 p.1 _
  · split
    · exact Flow.noEccFrame_raise hu
    · exact ((hu.scramble io _ n).scramble io _ n).keepPrefetched _

theorem cacheOpTranslate_noEccFrame (va : Word) (kind : AccessKind) : (cacheOpTranslate va kind t).NoEccFrame s := by
  unfold cacheOpTranslate
  refine (userAddressCheck_noEccFrame h va).andThen fun _ u hu => ?_
  exact (translateData_noEccFrame hu va kind).andThen fun p w hw => hw

theorem physFetch_noEccFrame (va : Word) (a : Nat) : (physFetch va a t).NoEccFrame s := by
  unfold physFetch
  split
  · split
    · exact h
    · exact (tcmRead_noEccFrame h _ _ _ a 4).andThen fun bs u hu => hu
  · split
    · exact (icacheRead_noEccFrame h va a).andThen fun bs u hu => hu
    · exact h.busReadState _ a 4

theorem fetchAt_noEccFrame (va : Word) (a : Nat) : (fetchAt va a t).NoEccFrame s := by
  unfold fetchAt
  refine (physFetch_noEccFrame h va a).andThen fun f u hu => ?_
  split
  · exact hu
  · exact hu.drawn

theorem fetch_noEccFrame : (fetch t).NoEccFrame s := by
  unfold fetch
  split
  · split
    · exact (mmuFetch_noEccFrame h t.pc).andThen fun a u hu => fetchAt_noEccFrame hu t.pc a
    · refine (mpuFetch_noEccFrame h t.pc).andThen fun violates u hu => ?_
      refine (fetchAt_noEccFrame hu t.pc _).andThen fun w v hv => ?_
      split
      · exact hu
      · exact hv
  · exact Flow.noEccFrame_fault _

end

/-! ### The instructions -/

namespace NoEccFrame

theorem of_raise {x : Exc} (hu : NoEccFrame s u) (h : raise x u = .next t) (hx : x ≠ .eccRegisterFile := by nofun) :
    NoEccFrame s t := by
  injection h with h
  exact h ▸ hu.take fun e => absurd e hx

theorem of_advance (hu : NoEccFrame s u) (h : (.next u.advance : Result) = .next t) : NoEccFrame s t := by
  injection h with h
  exact h ▸ hu.advance

theorem of_finish {r : RegIdx} {v : Word} (hu : NoEccFrame s u) (h : u.finish r v = .next t) : NoEccFrame s t := by
  injection h with h
  exact h ▸ (hu.setReg r v).advance

theorem of_bind {α : Type} {m : Flow α} {k : α → State → Result} (hm : m.NoEccFrame s)
    (hk : ∀ a u, NoEccFrame s u → k a u = .next t → NoEccFrame s t) (h : m.bind k = .next t) : NoEccFrame s t := by
  cases m with
  | ok a u => exact hk a u hm h
  | stop o => exact hm t h

theorem of_supervisorOnly {rest : Result} (hr : rest = .next t → NoEccFrame s t) (h : supervisorOnly s rest = .next t) :
    NoEccFrame s t := by
  rcases supervisorOnly_cases s rest with ⟨-, he⟩ | ⟨-, he⟩
  · exact .of_raise (.refl s) (he.symm.trans h)
  · exact hr (he.symm.trans h)

theorem of_whenImplemented {present : Bool} {rest : Result} (hr : rest = .next t → NoEccFrame s t)
    (h : whenImplemented present s rest = .next t) : NoEccFrame s t := by
  rcases whenImplemented_cases present s rest with ⟨-, he⟩ | ⟨-, he⟩
  · exact .of_raise (.refl s) (he.symm.trans h)
  · exact hr (he.symm.trans h)

theorem of_illegalInstruction (hu : NoEccFrame s u) (h : illegalInstruction u = .next t) : NoEccFrame s t := by
  rcases illegalInstruction_cases u with ⟨-, he⟩ | ⟨-, he⟩
  · exact .of_raise hu (he.symm.trans h)
  · cases he.symm.trans h

theorem of_previousSetAccess {rest : Result} (hr : rest = .next t → NoEccFrame s t)
    (h : previousSetAccess s rest = .next t) : NoEccFrame s t := by
  unfold previousSetAccess at h
  split at h
  · split at h
    · split at h
      · exact .of_raise (refl s).drawn h
      · exact .of_illegalInstruction (refl s).drawn h
    · exact .of_illegalInstruction (refl s) h
  · refine .of_supervisorOnly (fun h => ?_) h
    split at h
    · exact hr h
    · cases h

theorem of_transfer {target : Word} {commit : State} (h : transfer target commit s = .next t) (hc : NoEccFrame s commit) :
    NoEccFrame s t := by
  rcases transfer_cases h with ⟨-, rfl⟩ | ⟨-, -, rfl⟩
  · exact hc.setPc target
  · exact (refl s).take nofun

theorem of_jmp {a : RegIdx} (h : execJmp a s = .next t) : NoEccFrame s t := by
  unfold execJmp at h
  split at h
  · exact .of_transfer h (refl s)
  · cases h

theorem of_opDivide {error : Bool} {quotient : Word} {c : RegIdx} (h : opDivide error quotient c s = .next t) :
    NoEccFrame s t := by
  refine .of_whenImplemented (fun h => ?_) h
  split at h
  · split at h
    · exact .of_raise (refl s) h
    · exact .of_finish (refl s).drawn h
  · exact .of_finish (refl s) h

theorem of_opBranch {rel : Word → Word → Bool} {a b : RegIdx} {imm16 : BitVec 16}
    (h : opBranch rel a b imm16 s = .next t) : NoEccFrame s t := by
  rcases opBranch_cases h with ⟨-, -, rfl⟩ | ⟨-, rfl | rfl⟩ | ⟨-, -, rfl | rfl⟩
  · exact (refl s).setPc _
  · exact (refl s).advance
  · exact (refl s).drawn.advance
  · exact (refl s).take nofun
  · exact (refl s).drawn.take nofun

theorem of_opLoad {io : Bool} {n : Nat} {extend : Word → Word} {b a : RegIdx} {imm16 : BitVec 16}
    (h : opLoad io n extend b a imm16 s = .next t) : NoEccFrame s t := by
  refine .of_bind (memRead_noEccFrame (refl s) io _ n extend) (fun v u hu h => ?_) h
  injection h with h
  exact h ▸ (hu.setLoaded b v).advance

theorem of_opStore {io : Bool} {n : Nat} {b a : RegIdx} {imm16 : BitVec 16} (h : opStore io n b a imm16 s = .next t) :
    NoEccFrame s t :=
  .of_bind (memWrite_noEccFrame (refl s) io _ n _) (fun _ _ hu h => .of_advance hu h) h

theorem of_cacheOp {va : Word} {kind : AccessKind} {op : Nat → State → Flow Unit}
    (hop : ∀ p u, NoEccFrame s u → (op p u).NoEccFrame s)
    (h : ((cacheOpTranslate va kind s).bind fun p u => (op p u).bind fun _ w => .next w.advance) = .next t) :
    NoEccFrame s t :=
  .of_bind (cacheOpTranslate_noEccFrame (refl s) va kind)
    (fun p u hu h => .of_bind (hop p u hu) (fun _ _ hw h => .of_advance hw h) h) h

theorem of_custom {n : BitVec 8} {readra readrb writerc : Bool} {c a b : RegIdx}
    (h : execCustom n readra readrb writerc c a b s = .next t) : NoEccFrame s t := by
  have logic : ∀ k, NoEccFrame s { s with customState := k } := fun _ => { refl s with }
  unfold execCustom at h
  cases writerc
  · exact .of_advance (logic _) h
  · exact .of_finish (logic _) h

theorem ctlRead (h : NoEccFrame s t) (n : BitVec 5) : NoEccFrame s (t.ctlRead n) := by
  unfold State.ctlRead
  split
  · exact { h with }
  · exact h

end NoEccFrame

/-- Every instruction but a `wrctl` in supervisor mode keeps the frame. -/
theorem exec_noEccFrame {i : Instr} (hi : stU s.status = true ∨ ∀ n a, i ≠ .wrctl n a) (h : exec i s = .next t) :
    NoEccFrame s t := by
  have here := NoEccFrame.refl s
  cases i with
  | ldb | ldbio | ldbu | ldbuio | ldh | ldhio | ldhu | ldhuio | ldw | ldwio => exact .of_opLoad h
  | stb | stbio | sth | sthio | stw | stwio => exact .of_opStore h
  | add | addi | sub | and | andi | andhi | or | ori | orhi | xor | xori | xorhi | nor
  | cmpeq | cmpne | cmpge | cmpgeu | cmplt | cmpltu | cmpeqi | cmpnei | cmpgei | cmpgeui | cmplti | cmpltui
  | rol | roli | ror | sll | slli | srl | srli | sra | srai | nextpc => exact .of_finish here h
  | mul | muli | mulxss | mulxsu | mulxuu => exact .of_whenImplemented (.of_finish here) h
  | div | divu => exact .of_opDivide h
  | br | ret => exact .of_transfer h here
  | call =>
    injection h with h
    exact h ▸ (here.setReg _ _).setPc _
  | callr => exact .of_transfer h (here.setReg _ _)
  | jmp => exact .of_jmp h
  | jmpi =>
    injection h with h
    exact h ▸ here.setPc _
  | beq | bne | bge | bgeu | blt | bltu => exact .of_opBranch h
  | trap => exact .of_raise here h
  | eret => exact .of_supervisorOnly (rest := s.exceptionReturn) (fun h => .of_transfer h { here with }) h
  | bret => exact .of_supervisorOnly (rest := s.breakReturn) (fun h => .of_transfer h { here with }) h
  | brk =>
    injection h with h
    exact h ▸ { here.setGpr 0 30#5 s.nextPc with }
  | rdctl c n => exact .of_supervisorOnly (.of_finish (here.ctlRead n)) h
  | wrctl n a =>
    rcases supervisorOnly_cases s ((s.writeCtl n (s.reg a)).bind fun _ u => .next (u.flushedBy n).advance) with
      ⟨-, he⟩ | ⟨hU, -⟩
    · exact .of_raise here (he.symm.trans h)
    · exact absurd rfl (hi.resolve_left (by simp [hU]) n a)
  | flushd => exact .of_advance (here.dcacheFlushLine _) h
  | flushda => exact .of_cacheOp (fun p _ hu => dcacheFlushAddr_noEccFrame hu _ p) h
  | initd => exact .of_supervisorOnly (.of_advance (here.dcacheInitLine _)) h
  | initda => exact .of_whenImplemented (.of_cacheOp fun p _ hu => dcacheInitAddr_noEccFrame hu _ p) h
  | flushi => exact .of_advance (here.icacheInvalidateLine _) h
  | initi => exact .of_supervisorOnly (.of_advance (here.icacheInvalidateLine _)) h
  | flushp => exact .of_advance here.pipelineFlushed h
  | sync => exact .of_advance here h
  | rdprs => exact .of_previousSetAccess (.of_finish here) h
  | wrprs => exact .of_previousSetAccess (.of_advance (here.setGpr _ _ _).pipelineFlushed) h
  | custom => exact .of_custom h

end

end Sys2Proof.Machine

/-! ## `status` after reset and `cpuid` (O40, O42) -/

/- Apart from `Sys2Proof.Machine`, where the name would hide the value `Sys2Proof.resetStatus`. -/
namespace Sys2Proof.Reset

open Sys2Proof Machine

/-- Settles O40: both kinds of reset give `status` the value `resetStatus`, whose fields are read off. -/
theorem resetStatus : Obligations.ResetStatus := by
  have fields : ∀ w, w = Sys2Proof.resetStatus → w = 0x00800000#32 ∧ stRsie w = true ∧ stU w = false ∧ stPie w = false
      ∧ stCrs w = 0#6 ∧ stEh w = false ∧ stNmi w = false ∧ stPrs w = 0#6 ∧ stIl w = 0#6 ∧ stIh w = false := by
    rintro _ rfl
    decide
  refine ⟨fun c => fields _ rfl, fun s t hpin h => fields _ ?_⟩
  have pin : boundary { s with eccBus := 0#30 } = .next (State.resetAll { s with eccBus := 0#30 }) := if_pos hpin
  injection pin.symm.trans h with ht
  exact ht ▸ rfl

end Sys2Proof.Reset

namespace Sys2Proof.Machine

open Sys2Proof

/-- No step changes the configuration (00_scope.md R7). -/
theorem step_cfg {s t : State} (h : step s = .next t) : t.cfg = s.cfg := by
  rcases boundary_next h with ⟨mem, marks, rfl⟩ | rfl | hk
  · rfl
  · exact (breakEntry_keeps { s with eccBus := 0#30 }).cfg
  · exact hk.cfg

/-- Settles O42: `cpuid` reads a parameter, and `wrctl` of a register that is not written leaves the flush of the pipeline. -/
theorem cpuidConstant : Obligations.CpuidConstant := by
  refine ⟨fun c => rfl, fun s t h => congrArg Config.cpuId (step_cfg h), fun s a hU => ?_⟩
  have write : (s.writeCtl 5#5 (s.reg a)).bind (fun _ u => .next (u.flushedBy 5#5).advance)
      = .next { s with pc := s.pc + 4#32, prefetched := [], eccinjOld := 0#32 } := rfl
  exact (if_neg (by simp [hU])).trans write

end Sys2Proof.Machine

/-! ## What a step does to the control registers

What O57, O59 and O60 turn on, said once: an instruction either leaves the control registers as they are, or it takes an exception
or a break, returns from one, or is a `wrctl`; and a step is a reset, an event, or an instruction run on a state that the fetch and
the reading of its operands leave. -/

namespace Sys2Proof.Machine

open Sys2Proof

/-- The configuration, the control registers, the MPU and the EIC's request are the same in `t` as in `s`; `eccinj`, whose fields
hardware returns to 0, keeps its reserved bits (10_state.md R68). -/
structure SameControl (s t : State) : Prop where
  cfg : t.cfg = s.cfg
  status : t.status = s.status
  estatus : t.estatus = s.estatus
  bstatus : t.bstatus = s.bstatus
  ienable : t.ienable = s.ienable
  exception : t.exception = s.exception
  pteaddr : t.pteaddr = s.pteaddr
  tlbacc : t.tlbacc = s.tlbacc
  tlbmisc : t.tlbmisc = s.tlbmisc
  badaddr : t.badaddr = s.badaddr
  config : t.config = s.config
  mpubase : t.mpubase = s.mpubase
  mpuacc : t.mpuacc = s.mpuacc
  iregions : t.iregions = s.iregions
  dregions : t.dregions = s.dregions
  eic : t.eic = s.eic
  eccinjReserved : s.eccinj &&& 0xFFC00000#32 = 0#32 → t.eccinj &&& 0xFFC00000#32 = 0#32
  eccinjOldReserved : s.eccinj &&& 0xFFC00000#32 = 0#32 → s.eccinjOld &&& 0xFFC00000#32 = 0#32 →
    t.eccinjOld &&& 0xFFC00000#32 = 0#32

section

variable {s t u : State}

theorem Inner.sameControl (h : Inner s t) : SameControl s t := { h with }

namespace SameControl

theorem refl (s : State) : SameControl s s := (Inner.refl s).sameControl

theorem trans (h : SameControl s t) (g : SameControl t u) : SameControl s u where
  cfg := g.cfg.trans h.cfg
  status := g.status.trans h.status
  estatus := g.estatus.trans h.estatus
  bstatus := g.bstatus.trans h.bstatus
  ienable := g.ienable.trans h.ienable
  exception := g.exception.trans h.exception
  pteaddr := g.pteaddr.trans h.pteaddr
  tlbacc := g.tlbacc.trans h.tlbacc
  tlbmisc := g.tlbmisc.trans h.tlbmisc
  badaddr := g.badaddr.trans h.badaddr
  config := g.config.trans h.config
  mpubase := g.mpubase.trans h.mpubase
  mpuacc := g.mpuacc.trans h.mpuacc
  iregions := g.iregions.trans h.iregions
  dregions := g.dregions.trans h.dregions
  eic := g.eic.trans h.eic
  eccinjReserved := fun x => g.eccinjReserved (h.eccinjReserved x)
  eccinjOldReserved := fun x y => g.eccinjOldReserved (h.eccinjReserved x) (h.eccinjOldReserved x y)

theorem setPc (h : SameControl s t) (pc : Word) : SameControl s { t with pc := pc } := { h with }

theorem advance (h : SameControl s t) : SameControl s t.advance := h.setPc _

theorem drawn (h : SameControl s t) : SameControl s t.drawn := { h with }

theorem signal (h : SameControl s t) (n : Nat) : SameControl s (t.signal n) := { h with }

theorem pipelineFlushed (h : SameControl s t) : SameControl s t.pipelineFlushed :=
  { h with eccinjOldReserved := fun _ _ => BitVec.zero_and }

theorem storeGpr (h : SameControl s t) (set : Nat) (r : RegIdx) (v : Word) : SameControl s (t.storeGpr set r v) := by
  unfold State.storeGpr
  split <;> exact { h with }

theorem setGpr (h : SameControl s t) (set : Nat) (r : RegIdx) (v : Word) : SameControl s (t.setGpr set r v) := by
  unfold State.setGpr State.rfWritten
  split
  · exact h
  · split
    · exact { (h.storeGpr set r _).trans (inner_injectionDone _ injRf).sameControl with }
    · exact h.storeGpr set r _

theorem setReg (h : SameControl s t) (r : RegIdx) (v : Word) : SameControl s (t.setReg r v) := by
  unfold State.setReg
  split
  · exact h
  · exact h.setGpr _ r v

theorem setLoaded (h : SameControl s t) (r : RegIdx) (v : Word) : SameControl s (t.setLoaded r v) := by
  unfold State.setLoaded
  split
  · exact h.setGpr _ r v
  · exact h.setReg r v

end SameControl

theorem or_and_eq_zero {x y m : Word} (hx : x &&& m = 0#32) (hy : y &&& m = 0#32) : (x ||| y) &&& m = 0#32 := by
  rw [BitVec.and_comm, BitVec.and_or_distrib_left, BitVec.and_comm m, BitVec.and_comm m, hx, hy, BitVec.or_zero]

theorem and_and_eq_zero {x y m : Word} (hx : x &&& m = 0#32) : (x &&& y) &&& m = 0#32 := by
  rw [BitVec.and_assoc, BitVec.and_comm y, ← BitVec.and_assoc, hx, BitVec.zero_and]

/-- What an instruction run in `s` can do to the control registers and the program counter. -/
inductive ControlNext (s : State) : State → Prop
  /-- The instructions that leave them: the program counter goes to the next instruction or to an aligned target. -/
  | kept {t : State} (h : SameControl s t) (hpc : t.pc = s.nextPc ∨ field t.pc 0 2 = 0#2) : ControlNext s t
  /-- An exception (60_exceptions.md R449). -/
  | raised {u : State} (x : Exc) (h : SameControl s u) : ControlNext s (u.take x)
  /-- `wrctl` (46_other_control.md R396). -/
  | wroteControl {u : State} (n : BitVec 5) (v : Word) (hU : stU s.status = false) (h : s.writeCtl n v = .ok () u) :
    ControlNext s (u.flushedBy n).advance
  /-- `eret` and `bret` (60_exceptions.md R470, R472). -/
  | returned (saved pc : Word) (debug : Bool) (hU : stU s.status = false) (hpc : field pc 0 2 = 0#2) :
    ControlNext s { s.pipelineFlushed with status := restoredStatus s.cfg s.status saved, debugMode := debug, pc := pc }
  /-- `break` (60_exceptions.md R460). -/
  | broke : ControlNext s s.breakEntry

theorem advance_pc (h : u.pc = s.pc) : u.advance.pc = s.nextPc := congrArg (· + 4#32) h

/-- Falling through. -/
theorem ControlNext.advanced (h : SameControl s u) (hpc : u.pc = s.pc) : ControlNext s u.advance :=
  .kept h.advance (.inl (advance_pc hpc))

/-- An old value of an injection that `rdctl` still returns is a part of the old value kept (70_reset_and_hazards.md R543). -/
theorem eccinjSeen_and_eq_zero (s : State) {m : Word} (h : s.eccinjOld &&& m = 0#32) : s.eccinjSeen &&& m = 0#32 := by
  unfold State.eccinjSeen
  refine List.foldlRecOn (motive := fun w => w &&& m = 0#32) _ _ BitVec.zero_and fun w hw k _ => ?_
  split
  · exact or_and_eq_zero hw (and_and_eq_zero h)
  · exact hw

theorem ctlRead_sameControl (s : State) (n : BitVec 5) : SameControl s (s.ctlRead n) := by
  unfold State.ctlRead
  split
  · exact { SameControl.refl s with eccinjOldReserved := fun _ h => eccinjSeen_and_eq_zero s h }
  · exact .refl s

theorem ctlRead_pc (s : State) (n : BitVec 5) : (s.ctlRead n).pc = s.pc := by
  unfold State.ctlRead
  split <;> rfl

/-- What an instruction can do, sorted by its effect on the control registers. -/
theorem ExecNext.control (h : ExecNext s t) : ControlNext s t := by
  cases h with
  | raised x hu => exact .raised x hu.sameControl
  | moved pc hu hpc => exact .kept (hu.sameControl.setPc pc) hpc
  | wrote r v pc hu hpc => exact .kept ((hu.sameControl.setReg r v).setPc pc) hpc
  | loaded r v hu => exact .advanced (hu.sameControl.setLoaded r v) ((State.setLoaded_pc _ r v).trans hu.pc)
  | custom logic r v =>
    have hlogic : SameControl s { s with customState := logic } := { SameControl.refl s with }
    exact .advanced (hlogic.setReg r v) (State.setReg_pc _ r v)
  | readControl n r v =>
    exact .advanced ((ctlRead_sameControl s n).setReg r v) ((State.setReg_pc _ r v).trans (ctlRead_pc s n))
  | wroteControl n v hU hw => exact .wroteControl n v hU hw
  | wrotePrevious r v => exact .advanced ((SameControl.refl s).setGpr _ r v).pipelineFlushed (s.setGpr_pc _ r v)
  | flushed => exact .advanced (SameControl.refl s).pipelineFlushed rfl
  | returned saved pc debug hU hpc => exact .returned saved pc debug hU hpc
  | broke => exact .broke

/-! ### A step -/

/-- What the fetch and the reading of registers leave, before an event is taken or the instruction runs. -/
structure Before (s t : State) : Prop extends SameControl s t, NoEccFrame s t where
  pc : t.pc = s.pc

/-- The states that a boundary can answer (60_exceptions.md R440). -/
inductive BoundaryNext (s : State) : State → Prop
  /-- Both kinds of reset (70_reset_and_hazards.md R520, R522). -/
  | reset (mem : Memory) (marks : List (Nat × EccMark)) : BoundaryNext s { s.resetCore with mem := mem, tcmEcc := marks }
  /-- A hardware break (60_exceptions.md R461). -/
  | broke : BoundaryNext s { s.breakEntry with hwBreak := false }
  /-- An internal interrupt, a writeback error, or an exception of the fetch or of the operands. -/
  | raised {u : State} (x : Exc) (h : SameControl s u) (hx : NoEccFrame s (u.take x)) : BoundaryNext s (u.take x)
  /-- An external interrupt (60_exceptions.md R455). -/
  | interrupted {u : State} (h : Before s u) : BoundaryNext s (u.interruptEntry u.eic)
  /-- An instruction. -/
  | ran {u t : State} (i : Instr) (h : Before s u) (hx : exec i u = .next t) : BoundaryNext s t

/-- Every next state that the answer gives is one of those. -/
def Answers (s : State) (r : Result) : Prop := ∀ t, r = .next t → BoundaryNext s t

/-- A part of a step before the instruction: it leaves a state to run on, or ends the step. -/
def Flow.Before {α : Type} (s : State) (m : Flow α) : Prop :=
  match m with
  | .ok _ t => Machine.Before s t
  | .stop o => Answers s o

theorem Before.of_parts (h : SameControl s t) (f : NoEccFrame s t) (hpc : t.pc = s.pc) : Before s t := { h, f with pc := hpc }

theorem Before.refl (s : State) : Before s s := .of_parts (.refl s) (.refl s) rfl

theorem Before.drawn (h : Before s t) : Before s t.drawn :=
  .of_parts h.toSameControl.drawn h.toNoEccFrame.drawn h.pc

theorem Before.signal (h : Before s t) (n : Nat) : Before s (t.signal n) :=
  .of_parts (h.toSameControl.signal n) (h.toNoEccFrame.signal n) h.pc

theorem Answers.next (h : BoundaryNext s t) : Answers s (.next t) := fun u hu => by
  injection hu with hu
  exact hu ▸ h

theorem Answers.fault (f : Fault) : Answers s (.fault f) := fun _ h => by cases h

theorem Answers.refused (r : Refusal) : Answers s (.refused r) := fun _ h => by cases h

theorem BoundaryNext.of_take (h : Before s u) {x : Exc} (hx : x = .eccRegisterFile → s.cfg.ecc = true) :
    BoundaryNext s (u.take x) :=
  .raised x h.toSameControl (h.toNoEccFrame.take hx)

theorem Flow.Before.bind {α : Type} {m : Flow α} {k : α → State → Result} (hm : m.Before s)
    (hk : ∀ a u, Machine.Before s u → Answers s (k a u)) : Answers s (m.bind k) := by
  cases m with
  | ok a u => exact hk a u hm
  | stop o => exact hm

theorem Answers.raise (h : Before s u) {x : Exc} (hx : x ≠ .eccRegisterFile := by nofun) : Answers s (raise x u) :=
  .next (.of_take h fun e => absurd e hx)

theorem fetch_before (h : Before s u) : (fetch u).Before s := by
  have hw := fetch_within u
  have hf := fetch_noEccFrame h.toNoEccFrame
  cases hm : fetch u with
  | ok f w =>
    rw [hm] at hw hf
    exact .of_parts (h.toSameControl.trans (Inner.sameControl hw)) hf ((Inner.pc hw).trans h.pc)
  | stop o =>
    rw [hm] at hw hf
    rcases hw with ⟨x, w, hi, rfl⟩ | ⟨f, rfl⟩
    · exact .next (.raised x (h.toSameControl.trans hi.sameControl) (hf _ rfl))
    · exact .fault f

/-- A register-file error raises on a core with ECC only. -/
theorem ecc_of_eccRead_fatal {m : EccMark} (h : s.eccRead m = .fatal) : s.cfg.ecc = true := by
  cases he : s.cfg.ecc
  · rw [State.eccRead_noEcc s m he] at h
    cases h
  · rfl

theorem storeGpr_noEccFrame (h : NoEccFrame s t) (set : Nat) (r : RegIdx) (v : Word) : NoEccFrame s (t.storeGpr set r v) := by
  unfold State.storeGpr
  split <;> exact { h with }

theorem storeGpr_pc (s : State) (set : Nat) (r : RegIdx) (v : Word) : (s.storeGpr set r v).pc = s.pc := by
  unfold State.storeGpr
  split <;> rfl

theorem Before.storeGpr (h : Before s t) (set : Nat) (r : RegIdx) (v : Word) : Before s (t.storeGpr set r v) :=
  .of_parts (h.toSameControl.storeGpr set r v) (storeGpr_noEccFrame h.toNoEccFrame set r v) ((storeGpr_pc t set r v).trans h.pc)

theorem readSource_before (h : Before s u) (r : RegRef) : (readSource r u).Before s := by
  unfold readSource
  split
  · exact h
  · exact { h.storeGpr r.1 r.2 _ with }
  · next hfatal => exact .next (.of_take (h.signal 2) fun _ => h.cfg ▸ ecc_of_eccRead_fatal hfatal)
  · exact (h.storeGpr r.1 r.2 _).drawn.signal 2

theorem readSources_before (h : Before s u) (rs : List RegRef) : (readSources rs u).Before s := by
  induction rs generalizing u with
  | nil => exact h
  | cons r rs ih =>
    have hr := readSource_before h r
    unfold readSources
    cases hm : readSource r u with
    | ok _ w => exact ih (by rw [hm] at hr; exact hr)
    | stop o => rw [hm] at hr; exact hr

theorem takeLate_answers (h : Before s u) (x : LateExc) : Answers s (.next (u.takeLate x)) := by
  cases x with
  | mpuInstr => exact .next (.of_take h nofun)
  | eccFetch k => exact .next (.of_take (h.signal _) nofun)

theorem runDecoded_answers (h : Before s u) (i : Instr) (f : Fetched) : Answers s (runDecoded i f u) := by
  unfold runDecoded
  refine (readSources_before h _).bind fun _ w hw => ?_
  split
  · exact takeLate_answers hw _
  · split
    · intro t ht
      split at ht
      · exact .ran i h ht
      · exact .ran i hw ht
    · exact .refused _

theorem runUndecoded_answers (h : Before s u) (f : Fetched) : Answers s (runUndecoded f u) := by
  unfold runUndecoded
  split
  · exact takeLate_answers h _
  · split
    · exact .fault _
    · rcases illegalInstruction_cases u with ⟨-, he⟩ | ⟨-, he⟩
      · exact he ▸ .raise h
      · exact he ▸ .fault _

theorem runWord_answers (h : Before s u) (f : Fetched) : Answers s (runWord f u) := by
  unfold runWord
  split
  · exact runDecoded_answers h _ f
  · exact runUndecoded_answers h f

theorem fetchAndRun_answers (h : Before s u) : Answers s (fetchAndRun u) := by
  unfold fetchAndRun
  split
  · exact (fetch_before h).bind fun f w hw => runWord_answers hw f
  · exact .fault _

theorem interruptOrRun_answers (h : Before s u) : Answers s (interruptOrRun u) := by
  unfold interruptOrRun
  split
  · exact .raise h
  · split
    · unfold takeExternal
      split
      · exact .next (.interrupted h)
      · exact .refused _
    · exact fetchAndRun_answers h

theorem writebackOr_answers (s : State) : Answers s (writebackOr s interruptOrRun) := by
  have drawn := (Before.refl s).drawn
  unfold writebackOr
  split
  · split
    · have reported : Before s { s.drawn with wbError := false } := { drawn with }
      exact .raise reported
    · exact interruptOrRun_answers drawn
  · exact interruptOrRun_answers (.refl s)

/-- Everything that a boundary can answer. -/
theorem boundary_cases (h : boundary s = .next t) : BoundaryNext s t := by
  unfold boundary at h
  split at h
  · injection h with h
    rw [← h, State.resetAll]
    exact .reset _ _
  · split at h
    · cases h
    · split at h
      · injection h with h
        exact h ▸ .broke
      · split at h
        · injection h with h
          exact h ▸ .reset s.mem s.tcmEcc
        · exact writebackOr_answers s t h

end

end Sys2Proof.Machine

/-! ## Bits of a word that are 0 -/

namespace Sys2Proof

theorem place_and_eq_zero {k : Nat} (f : BitVec k) (lo : Nat) {m : Word} (hm : field m lo k = 0#k) : place f lo &&& m = 0#32 := by
  apply BitVec.eq_of_getLsbD_eq
  intro i hi
  rw [BitVec.getLsbD_and, getLsbD_place, BitVec.getLsbD_zero]
  cases hf : f.getLsbD (i - lo)
  · simp
  · have hlt : i - lo < k := BitVec.lt_of_getLsbD hf
    by_cases hlo : lo ≤ i
    · have hbit := congrArg (BitVec.getLsbD · (i - lo)) hm
      simp only [getLsbD_field, hlt, decide_true, Bool.true_and, BitVec.getLsbD_zero, Nat.add_sub_cancel' hlo] at hbit
      rw [hbit, Bool.and_false]
    · rw [decide_eq_false hlo, Bool.and_false, Bool.false_and, Bool.false_and]

theorem flagMask_and_eq_zero (on : Bool) (n : Nat) {m : Word} (hm : field m n 1 = 0#1) : flagMask on n &&& m = 0#32 :=
  place_and_eq_zero _ n hm

/-- A field written where `m` has none of its bits. -/
theorem setField_and_eq_zero {k : Nat} {w m : Word} {lo : Nat} (v : BitVec k) (hw : w &&& m = 0#32)
    (hm : field m lo k = 0#k) : setField w lo k v &&& m = 0#32 :=
  Machine.or_and_eq_zero (Machine.and_and_eq_zero hw) (place_and_eq_zero v lo hm)

theorem setBit_and_eq_zero {w m : Word} {n : Nat} (v : Bool) (hw : w &&& m = 0#32) (hm : field m n 1 = 0#1) :
    setBit w n v &&& m = 0#32 :=
  setField_and_eq_zero _ hw hm

/-- A part of what is masked away. -/
theorem masked_and_eq_zero (v : Word) {a m : Word} (h : a &&& m = 0#32) : (v &&& a) &&& m = 0#32 := by
  rw [BitVec.and_assoc, h, BitVec.and_zero]

namespace Machine

/-- The bits of BASE, MASK and LIMIT begin at bit 8 (10_state.md R62, R63). -/
theorem regionBits_and_eq_zero (minSize top : Nat) {m : Word} (hm : m.toNat < 2 ^ 8) : regionBits minSize top &&& m = 0#32 := by
  apply BitVec.eq_of_getLsbD_eq
  intro i hi
  rw [BitVec.getLsbD_and, BitVec.getLsbD_zero, regionBits, BitVec.getLsbD_and, BitVec.getLsbD_not]
  by_cases hlow : i < 8
  · have hmask : (lowMask (max 8 (Nat.log2 minSize))).getLsbD i = true := by
      rw [lowMask, BitVec.getLsbD_ofNat, Nat.testBit_two_pow_sub_one]
      simp only [hi, decide_true, Bool.true_and, decide_eq_true_eq]
      omega
    rw [hmask, Bool.not_true, Bool.and_false, Bool.and_false, Bool.false_and]
  · have hbit : m.getLsbD i = false :=
      Nat.testBit_lt_two_pow (lt_of_lt_of_le hm (Nat.pow_le_pow_right (by omega) (by omega)))
    rw [hbit, Bool.and_false]

theorem mpubaseWritten_and_eq_zero (c : Config) (v : Word) : mpubaseWritten c v &&& 0x000000C0#32 = 0#32 := by
  have bits : ∀ a b, (v &&& regionBits a b) &&& 0x000000C0#32 = 0#32 := fun a b =>
    masked_and_eq_zero v (regionBits_and_eq_zero a b (by decide))
  unfold mpubaseWritten
  split
  · exact or_and_eq_zero (or_and_eq_zero (bits _ _) (place_and_eq_zero _ 1 (by decide))) (by decide)
  · exact or_and_eq_zero (bits _ _) (place_and_eq_zero _ 1 (by decide))

theorem mpuaccWritten_and_eq_zero (c : Config) (d : Bool) (v : Word) : mpuaccWritten c d v &&& 0x00000083#32 = 0#32 := by
  have mt : (if d then v &&& 0x00000060#32 else 0#32) &&& 0x00000083#32 = 0#32 := by
    split
    · exact masked_and_eq_zero v (by decide)
    · exact BitVec.zero_and
  exact or_and_eq_zero (or_and_eq_zero (masked_and_eq_zero v (regionBits_and_eq_zero _ _ (by decide))) mt)
    (masked_and_eq_zero v (by decide))

theorem mpuaccOf_and_eq_zero (g : MpuRegion) : mpuaccOf g &&& 0x00000083#32 = 0#32 :=
  or_and_eq_zero (or_and_eq_zero (place_and_eq_zero _ 8 (by decide)) (place_and_eq_zero _ 5 (by decide)))
    (place_and_eq_zero _ 2 (by decide))

theorem tlbaccOf_and_eq_zero (e : TlbEntry) : tlbaccOf e &&& 0xFE000000#32 = 0#32 :=
  or_and_eq_zero (or_and_eq_zero (or_and_eq_zero (or_and_eq_zero (or_and_eq_zero
    (flagMask_and_eq_zero _ 24 (by decide)) (flagMask_and_eq_zero _ 23 (by decide))) (flagMask_and_eq_zero _ 22 (by decide)))
    (flagMask_and_eq_zero _ 21 (by decide))) (flagMask_and_eq_zero _ 20 (by decide))) (place_and_eq_zero _ 0 (by decide))

theorem tlbmiscWritten_and_eq_zero (s : State) (v : Word) : s.tlbmiscWritten v &&& 0xFE080000#32 = 0#32 :=
  or_and_eq_zero (or_and_eq_zero (or_and_eq_zero (or_and_eq_zero
    (flagMask_and_eq_zero _ 24 (by decide)) (place_and_eq_zero _ 20 (by decide))) (flagMask_and_eq_zero _ 18 (by decide)))
    (place_and_eq_zero _ 4 (by decide))) (masked_and_eq_zero _ (by decide))

/-- EE is there on a core with ECC only (10_state.md R51). -/
theorem bit_tlbmiscWritten_ee (s : State) (v : Word) (h : s.cfg.ecc = false) : bit (s.tlbmiscWritten v) 24 = false := by
  have h24 : s.tlbmiscWritten v &&& 0x01000000#32 = 0#32 := by
    refine or_and_eq_zero (or_and_eq_zero (or_and_eq_zero (or_and_eq_zero ?_ (place_and_eq_zero _ 20 (by decide)))
      (flagMask_and_eq_zero _ 18 (by decide))) (place_and_eq_zero _ 4 (by decide))) (masked_and_eq_zero _ (by decide))
    rw [h, Bool.false_and]
    decide
  have hbit := congrArg (BitVec.getLsbD · 24) h24
  simpa [bit] using hbit

/-- CAUSE and ECCFTL are the bits that an exception writes (10_state.md R48, 60_exceptions.md R457). -/
theorem exceptionOnEntry_and_eq_zero (x : EntryArgs) {e : Word} (h : e &&& 0x7FFFFF83#32 = 0#32) :
    exceptionOnEntry x e &&& 0x7FFFFF83#32 = 0#32 := by
  have cause := setField_and_eq_zero x.cause h (by decide : field 0x7FFFFF83#32 2 5 = 0#5)
  unfold exceptionOnEntry
  split
  · exact setBit_and_eq_zero _ cause (by decide)
  · exact cause

theorem tlbmiscOnEntry_and_eq_zero (x : EntryArgs) (eh : Bool) {w : Word} (h : w &&& 0xFE080000#32 = 0#32) :
    tlbmiscOnEntry x eh w &&& 0xFE080000#32 = 0#32 := by
  have flags : (if eh then w else setBit (setBit w 1 x.perm) 2 x.bad) &&& 0xFE080000#32 = 0#32 := by
    split
    · exact h
    · exact setBit_and_eq_zero _ (setBit_and_eq_zero _ h (by decide)) (by decide)
  have all : ∀ d b, setBit (setBit (if eh then w else setBit (setBit w 1 x.perm) 2 x.bad) 3 d) 0 b &&& 0xFE080000#32 = 0#32 :=
    fun d b => setBit_and_eq_zero b (setBit_and_eq_zero d flags (by decide)) (by decide)
  unfold tlbmiscOnEntry
  dsimp only
  by_cases hwe : (x.perm || x.tlbMiss && !eh) = true
  · rw [if_pos hwe]
    exact setBit_and_eq_zero _ (all _ _) (by decide)
  · rw [if_neg hwe]
    exact all _ _

theorem bit_tlbmiscOnEntry_ee (x : EntryArgs) (eh : Bool) (w : Word) : bit (tlbmiscOnEntry x eh w) 24 = bit w 24 := by
  have flags : bit (if eh then w else setBit (setBit w 1 x.perm) 2 x.bad) 24 = bit w 24 := by
    split
    · rfl
    · rw [bit_setBit_other _ _ _ _ (by omega), bit_setBit_other _ _ _ _ (by omega)]
  have all : ∀ d b, bit (setBit (setBit (if eh then w else setBit (setBit w 1 x.perm) 2 x.bad) 3 d) 0 b) 24 = bit w 24 :=
    fun d b => by rw [bit_setBit_other _ _ _ _ (by omega), bit_setBit_other _ _ _ _ (by omega), flags]
  unfold tlbmiscOnEntry
  dsimp only
  by_cases hwe : (x.perm || x.tlbMiss && !eh) = true
  · rw [if_pos hwe, bit_setBit_other _ _ _ _ (by omega)]
    exact all _ _
  · rw [if_neg hwe]
    exact all _ _

end Machine

end Sys2Proof

/-! ## Every step keeps the implemented bits (O57) -/

namespace Sys2Proof.Machine

open Sys2Proof

/-- The status words hold implemented bits, and the special registers 0 in their reserved bits; all but ECCFTL, which `NoEccFrame`
keeps. -/
structure State.Implemented (s : State) : Prop where
  status : s.cfg.normStatus s.status = s.status
  estatus : s.cfg.normStatus s.estatus = s.estatus
  bstatus : s.cfg.normStatus s.bstatus = s.bstatus
  exception : s.exception &&& 0x7FFFFF83#32 = 0#32
  pteaddr : s.pteaddr &&& 0x00000003#32 = 0#32
  tlbacc : s.tlbacc &&& 0xFE000000#32 = 0#32
  tlbmisc : s.tlbmisc &&& 0xFE080000#32 = 0#32
  eccinj : s.eccinj &&& 0xFFC00000#32 = 0#32
  eccinjOld : s.eccinjOld &&& 0xFFC00000#32 = 0#32
  config : s.config &&& ~~~configMask s.cfg = 0#32
  mpubase : s.mpubase &&& 0x000000C0#32 = 0#32
  mpuacc : s.mpuacc &&& 0x00000083#32 = 0#32
  ee : s.cfg.ecc = false → bit s.tlbmisc 24 = false

/-- `exception.ECCFTL` reads 0 on a core without ECC (10_state.md R48). -/
def State.EccftlClear (s : State) : Prop := s.cfg.ecc = false → bit s.exception 31 = false

section

variable {s t u : State}

theorem State.implemented_iff : s.StatusImplemented ∧ s.SpecialImplemented ↔ s.Implemented ∧ s.EccftlClear := by
  constructor
  · rintro ⟨⟨status, estatus, bstatus⟩, exception, pteaddr, tlbacc, tlbmisc, eccinj, eccinjOld, config, mpubase, mpuacc,
      ecc⟩
    exact ⟨⟨status, estatus, bstatus, exception, pteaddr, tlbacc, tlbmisc, eccinj, eccinjOld, config, mpubase, mpuacc,
      fun he => (ecc he).2⟩, fun he => (ecc he).1⟩
  · rintro ⟨h, eccftl⟩
    exact ⟨⟨h.status, h.estatus, h.bstatus⟩, h.exception, h.pteaddr, h.tlbacc, h.tlbmisc, h.eccinj, h.eccinjOld, h.config,
      h.mpubase, h.mpuacc, fun he => ⟨eccftl he, h.ee he⟩⟩

theorem NoEccFrame.eccftlClear (h : NoEccFrame s t) (hs : s.EccftlClear) : t.EccftlClear := fun he =>
  h.eccftl (h.cfg ▸ he) (hs (h.cfg ▸ he))

theorem State.EccftlClear.congr (hs : s.EccftlClear) (hc : t.cfg = s.cfg) (hx : t.exception = s.exception) :
    t.EccftlClear := fun he => hx ▸ hs (hc ▸ he)

theorem SameControl.implemented (h : SameControl s t) (hs : s.Implemented) : t.Implemented where
  status := by rw [h.cfg, h.status, hs.status]
  estatus := by rw [h.cfg, h.estatus, hs.estatus]
  bstatus := by rw [h.cfg, h.bstatus, hs.bstatus]
  exception := h.exception ▸ hs.exception
  pteaddr := h.pteaddr ▸ hs.pteaddr
  tlbacc := h.tlbacc ▸ hs.tlbacc
  tlbmisc := h.tlbmisc ▸ hs.tlbmisc
  eccinj := h.eccinjReserved hs.eccinj
  eccinjOld := h.eccinjOldReserved hs.eccinj hs.eccinjOld
  config := by rw [h.cfg, h.config, hs.config]
  mpubase := h.mpubase ▸ hs.mpubase
  mpuacc := h.mpuacc ▸ hs.mpuacc
  ee := fun he => h.tlbmisc ▸ hs.ee (h.cfg ▸ he)

namespace State.Implemented

/-! ### Events -/

theorem setGpr (h : s.Implemented) (set : Nat) (r : RegIdx) (v : Word) : (s.setGpr set r v).Implemented :=
  ((SameControl.refl s).setGpr set r v).implemented h

theorem pipelineFlushed (h : s.Implemented) : s.pipelineFlushed.Implemented := { h with eccinjOld := BitVec.zero_and }

theorem advance (h : s.Implemented) : s.advance.Implemented := { h with }

theorem signal (h : s.Implemented) (n : Nat) : (s.signal n).Implemented := { h with }

theorem saveForEntry (h : s.Implemented) (ret : Word) : (s.saveForEntry ret).Implemented := by
  unfold State.saveForEntry
  split
  · exact h
  · have status : (s.setGpr 0 29#5 ret).cfg.normStatus s.status = s.status := by rw [State.setGpr_cfg, h.status]
    exact { h.setGpr 0 29#5 ret with estatus := status }

theorem mmuOnEntry (h : s.Implemented) (x : EntryArgs) (eh : Bool) : (s.mmuOnEntry x eh).Implemented := by
  have vpn : (if !eh && (x.tlbMiss || x.perm) then setField s.pteaddr 2 20 (field x.vaddr 12 20) else s.pteaddr)
      &&& 0x00000003#32 = 0#32 := by
    split
    · exact setField_and_eq_zero _ h.pteaddr (by decide)
    · exact h.pteaddr
  unfold State.mmuOnEntry
  split
  · exact { h with
      pteaddr := vpn
      tlbmisc := tlbmiscOnEntry_and_eq_zero x eh h.tlbmisc
      ee := fun he => (bit_tlbmiscOnEntry_ee x eh s.tlbmisc).trans (h.ee he) }
  · exact h

theorem causeOnEntry (h : s.Implemented) (x : EntryArgs) : (s.causeOnEntry x).Implemented := by
  unfold State.causeOnEntry
  split
  · exact { h with exception := exceptionOnEntry_and_eq_zero x h.exception }
  · exact h

theorem eehOnEntry (h : s.Implemented) (x : EntryArgs) (eh : Bool) : (s.eehOnEntry x eh).Implemented := by
  unfold State.eehOnEntry
  split
  · exact h.signal 0
  · exact h

/-- An exception (60_exceptions.md R450). -/
theorem take (h : s.Implemented) (x : Exc) : (s.take x).Implemented := by
  have entered := ((((h.saveForEntry s.nextPc).mmuOnEntry (x.args s) (stEh s.status)).causeOnEntry (x.args s)).eehOnEntry
    (x.args s) (stEh s.status)).pipelineFlushed
  have cfg : (s.take x).cfg = s.cfg := (take_keeps s x).cfg
  have status : (s.take x).cfg.normStatus (entryStatus s.cfg s.status) = entryStatus s.cfg s.status := by
    rw [cfg]
    exact s.cfg.normStatus_idem _
  exact { entered with status := status }

/-- A break (60_exceptions.md R460). -/
theorem breakEntry (h : s.Implemented) : s.breakEntry.Implemented := by
  have entered := (h.setGpr 0 30#5 s.nextPc).pipelineFlushed
  have cfg : s.breakEntry.cfg = s.cfg := (breakEntry_keeps s).cfg
  have status : s.breakEntry.cfg.normStatus (breakStatus s.cfg s.status) = breakStatus s.cfg s.status := by
    rw [cfg]
    exact s.cfg.normStatus_idem _
  have bstatus : s.breakEntry.cfg.normStatus s.status = s.status := by rw [cfg, h.status]
  exact { entered with status := status, bstatus := bstatus }

/-- An external interrupt (60_exceptions.md R455). -/
theorem interruptEntry (h : s.Implemented) (q : EicRequest) : (s.interruptEntry q).Implemented := by
  have saved : (s.saveForInterrupt q).Implemented := by
    unfold State.saveForInterrupt
    split
    · exact h
    · split
      · have status : (s.setGpr 0 29#5 s.nextPc).cfg.normStatus s.status = s.status := by rw [State.setGpr_cfg, h.status]
        exact { h.setGpr 0 29#5 s.nextPc with estatus := status }
      · exact (h.setGpr _ _ _).setGpr _ _ _
  have cfg : (s.interruptEntry q).cfg = s.cfg := (interruptEntry_keeps s q).cfg
  have status : (s.interruptEntry q).cfg.normStatus (interruptStatus s.cfg s.status q (bit s.config 1))
      = interruptStatus s.cfg s.status q (bit s.config 1) := by
    rw [cfg]
    exact s.cfg.normStatus_idem _
  exact { saved.pipelineFlushed with status := status }

end State.Implemented

theorem resetCore_tlbmisc (s : State) : s.resetCore.tlbmisc =
    { s with tlbmisc := Config.freeWordAt (s.draws + 1) 6 }.tlbmiscWritten (Config.freeWordAt (s.draws + 1) 6) := rfl

theorem resetCore_exception (s : State) :
    s.resetCore.exception = Config.freeWordAt (s.draws + 1) 3 &&& (0x0000007C#32 ||| flagMask s.cfg.ecc 31) := rfl

/-- A reset gives every register a value that it can hold (70_reset_and_hazards.md R520, log 42). -/
theorem resetCore_implemented (s : State) : s.resetCore.Implemented where
  status := s.cfg.normStatus_resetStatus
  estatus := s.cfg.normStatus_idem _
  bstatus := s.cfg.normStatus_idem _
  exception := by
    rw [resetCore_exception]
    exact masked_and_eq_zero _ (or_and_eq_zero (by decide) (flagMask_and_eq_zero _ 31 (by decide)))
  pteaddr := masked_and_eq_zero (Config.freeWordAt (s.draws + 1) 4) (by decide)
  tlbacc := masked_and_eq_zero (Config.freeWordAt (s.draws + 1) 5) (by decide)
  tlbmisc := by
    rw [resetCore_tlbmisc]
    exact tlbmiscWritten_and_eq_zero _ _
  eccinj := masked_and_eq_zero (Config.freeWordAt (s.draws + 1) 7) (by decide)
  eccinjOld := BitVec.zero_and
  config := BitVec.zero_and
  mpubase := mpubaseWritten_and_eq_zero s.cfg (Config.freeWordAt (s.draws + 1) 9)
  mpuacc := mpuaccWritten_and_eq_zero s.cfg (bit (Config.freeWordAt (s.draws + 1) 9) 0) (Config.freeWordAt (s.draws + 1) 10)
  ee := fun he => by
    rw [resetCore_tlbmisc]
    exact bit_tlbmiscWritten_ee _ _ he

theorem resetCore_eccftlClear (s : State) : s.resetCore.EccftlClear := fun he => by
  have hc : s.cfg.ecc = false := he
  have fixed : bit (0x0000007C#32 ||| flagMask false 31) 31 = false := by decide
  rw [resetCore_exception, hc, bit, BitVec.getLsbD_and]
  exact Bool.and_eq_false_imp.2 fun _ => fixed

/-! ### `wrctl` -/

/-- What every write of a control register does: the configuration, `pc` and `exception` stay, and reserved bits stay as they read
(46_other_control.md R396). -/
structure CtlWritten (s t : State) : Prop where
  cfg : t.cfg = s.cfg
  pc : t.pc = s.pc
  exception : t.exception = s.exception
  implemented : s.Implemented → t.Implemented

namespace CtlWritten

theorem refl (s : State) : CtlWritten s s := ⟨rfl, rfl, rfl, id⟩

theorem trans (h : CtlWritten s t) (g : CtlWritten t u) : CtlWritten s u :=
  ⟨g.cfg.trans h.cfg, g.pc.trans h.pc, g.exception.trans h.exception, fun hs => g.implemented (h.implemented hs)⟩

theorem of_ok (h : (.ok () t : Flow Unit) = .ok () u) (ht : CtlWritten s t) : CtlWritten s u := by
  injection h with _ h
  exact h ▸ ht

theorem of_writeWhen {present : Bool} (h : writeWhen present s t = .ok () u) (ht : CtlWritten s t) : CtlWritten s u := by
  cases present
  · exact .of_ok h (.refl s)
  · exact .of_ok h ht

end CtlWritten

/-- `wrctl status`: the word is brought into the form that a status register holds (10_state.md R40). -/
theorem writeStatus_written (s : State) (v : Word) : CtlWritten s (s.writeStatus v) :=
  ⟨rfl, rfl, rfl, fun h => { h with status := s.cfg.normStatus_idem _ }⟩

theorem tlbacc_written (s : State) (v : Word) : CtlWritten s { s with tlbacc := v &&& 0x01FFFFFF#32 } :=
  ⟨rfl, rfl, rfl, fun h => { h with tlbacc := masked_and_eq_zero v (by decide) }⟩

/-- WAY is no reserved field of `tlbmisc`. -/
theorem CtlWritten.way (hu : CtlWritten s u) (way : BitVec 4) : CtlWritten s { u with tlbmisc := setField s.tlbmisc 20 4 way } :=
  ⟨hu.cfg, hu.pc, hu.exception, fun h => { hu.implemented h with
    tlbmisc := setField_and_eq_zero way h.tlbmisc (by decide)
    ee := fun he => (bit_setField_other _ _ _ _ (by omega)).trans (h.ee (hu.cfg ▸ he)) }⟩

theorem injectionDone_written (s : State) (lo : Nat) : CtlWritten s (s.injectionDone lo) :=
  ⟨s.injectionDone_cfg lo, s.injectionDone_pc lo, s.injectionDone_exception lo,
    (inner_injectionDone s lo).sameControl.implemented⟩

theorem tlb_written (s : State) (tlb : List TlbEntry) : CtlWritten s { s with tlb := tlb } :=
  ⟨rfl, rfl, rfl, fun h => { h with }⟩

theorem writeTlbacc_written (s : State) (v : Word) : CtlWritten s (s.writeTlbacc v) := by
  have acc := tlbacc_written s v
  unfold State.writeTlbacc
  dsimp only
  split
  · split
    · exact ((acc.trans (injectionDone_written _ injTlb)).trans (tlb_written _ _)).way _
    · exact acc.way _
  · exact acc

theorem readTlb_written (s : State) : CtlWritten s s.readTlb := by
  have pid : ∀ p : BitVec 14, s.Implemented → setField s.tlbmisc 4 14 p &&& 0xFE080000#32 = 0#32 := fun p h =>
    setField_and_eq_zero p h.tlbmisc (by decide)
  have ee : ∀ p : BitVec 14, s.Implemented → s.cfg.ecc = false → bit (setField s.tlbmisc 4 14 p) 24 = false := fun p h he =>
    (bit_setField_other _ _ _ _ (by omega)).trans (h.ee he)
  have vpn : ∀ n : BitVec 20, s.Implemented → setField s.pteaddr 2 20 n &&& 0x00000003#32 = 0#32 := fun n h =>
    setField_and_eq_zero n h.pteaddr (by decide)
  unfold State.readTlb
  dsimp only
  split
  · split
    · exact ⟨rfl, rfl, rfl, fun h => { h with
        pteaddr := vpn _ h, tlbmisc := pid _ h, tlbacc := tlbaccOf_and_eq_zero _, ee := ee _ h }⟩
    · next hecc =>
      have on : s.cfg.ecc = true := by
        cases he : s.cfg.ecc
        · simp [he] at hecc
        · rfl
      exact ⟨rfl, rfl, rfl, fun h => { h with
        pteaddr := vpn _ h, tlbmisc := setBit_and_eq_zero true (pid _ h) (by decide), tlbacc := tlbaccOf_and_eq_zero _,
        ee := fun he => absurd (on.symm.trans he) nofun }⟩
  · exact ⟨rfl, rfl, rfl, fun h => { h with
      pteaddr := vpn _ h, tlbmisc := pid _ h, tlbacc := masked_and_eq_zero _ (by decide), ee := ee _ h }⟩

theorem tlbmiscWritten_written (s : State) (v : Word) : CtlWritten s { s with tlbmisc := s.tlbmiscWritten v } :=
  ⟨rfl, rfl, rfl, fun h => { h with tlbmisc := tlbmiscWritten_and_eq_zero s v, ee := bit_tlbmiscWritten_ee s v }⟩

theorem writeTlbmisc_written (s : State) (v : Word) : CtlWritten s (s.writeTlbmisc v) := by
  unfold State.writeTlbmisc
  dsimp only
  split
  · exact (tlbmiscWritten_written s v).trans (readTlb_written _)
  · exact tlbmiscWritten_written s v

theorem mpuRegionWrite_written (s : State) : CtlWritten s s.mpuRegionWrite := by
  unfold State.mpuRegionWrite
  dsimp only
  split <;> exact ⟨rfl, rfl, rfl, fun h => { h with }⟩

theorem mpuRegionRead_written (s : State) : CtlWritten s s.mpuRegionRead := by
  unfold State.mpuRegionRead
  split
  · exact ⟨rfl, rfl, rfl, fun h => { h with
      mpubase := setField_and_eq_zero _ h.mpubase (by decide), mpuacc := mpuaccOf_and_eq_zero _ }⟩
  · exact ⟨rfl, rfl, rfl, fun h => { h with
      mpubase := mpubaseWritten_and_eq_zero _ _, mpuacc := mpuaccWritten_and_eq_zero _ _ _ }⟩

theorem writeMpuacc_written {v : Word} (h : s.writeMpuacc v = .ok () u) : CtlWritten s u := by
  have acc : CtlWritten s { s with mpuacc := mpuaccWritten s.cfg s.mpuD v } :=
    ⟨rfl, rfl, rfl, fun h => { h with mpuacc := mpuaccWritten_and_eq_zero _ _ _ }⟩
  unfold State.writeMpuacc at h
  split at h
  · split at h
    · cases h
    · exact .of_ok h (mpuRegionRead_written s)
  · dsimp only at h
    split at h
    · exact .of_ok h (acc.trans (mpuRegionWrite_written _))
    · exact .of_ok h acc

/-- One case for each register, in the order of their numbers. -/
theorem writeCtl_written {n : BitVec 5} {v : Word} (h : s.writeCtl n v = .ok () u) : CtlWritten s u := by
  unfold State.writeCtl at h
  split at h
  · exact .of_ok h (writeStatus_written s v)
  · exact .of_ok h ⟨rfl, rfl, rfl, fun h => { h with estatus := s.cfg.normStatus_idem v }⟩
  · exact .of_ok h ⟨rfl, rfl, rfl, fun h => { h with bstatus := s.cfg.normStatus_idem v }⟩
  · exact .of_writeWhen h ⟨rfl, rfl, rfl, fun h => { h with }⟩
  · exact .of_writeWhen h ⟨rfl, rfl, rfl, fun h => { h with pteaddr := masked_and_eq_zero v (by decide) }⟩
  · exact .of_writeWhen h (writeTlbacc_written s v)
  · exact .of_writeWhen h (writeTlbmisc_written s v)
  · exact .of_writeWhen h ⟨rfl, rfl, rfl, fun h => { h with eccinj := masked_and_eq_zero v (by decide) }⟩
  · exact .of_ok h ⟨rfl, rfl, rfl, fun h => { h with config := masked_and_eq_zero v (BitVec.and_not_self _) }⟩
  · exact .of_writeWhen h ⟨rfl, rfl, rfl, fun h => { h with mpubase := mpubaseWritten_and_eq_zero _ v }⟩
  · split at h
    · exact writeMpuacc_written h
    · exact .of_ok h (.refl s)
  · exact .of_ok h (.refl s)

theorem flushedBy_written (s : State) (n : BitVec 5) : CtlWritten s (s.flushedBy n) := by
  unfold State.flushedBy
  split
  · exact .refl s
  · exact ⟨rfl, rfl, rfl, State.Implemented.pipelineFlushed⟩

/-! ### A step -/

/-- What an instruction does to the reserved bits: a register holds 0 in them after it, whatever it did. -/
theorem exec_implemented {i : Instr} (h : exec i s = .next t) (hs : s.Implemented) : t.Implemented := by
  cases (exec_next h).control with
  | kept hk => exact hk.implemented hs
  | raised x hu => exact (hu.implemented hs).take x
  | wroteControl n v _ hw =>
    exact ((flushedBy_written _ n).implemented ((writeCtl_written hw).implemented hs)).advance
  | returned saved pc debug => exact { hs.pipelineFlushed with status := s.cfg.normStatus_idem _ }
  | broke => exact hs.breakEntry

/-- `wrctl` in supervisor mode (46_other_control.md R396). -/
theorem exec_wrctl_next {n : BitVec 5} {a : RegIdx} (hU : stU s.status = false) (h : exec (.wrctl n a) s = .next t) :
    ∃ u, s.writeCtl n (s.reg a) = .ok () u ∧ t = (u.flushedBy n).advance := by
  have run : (s.writeCtl n (s.reg a)).bind (fun _ u => .next (u.flushedBy n).advance) = .next t :=
    (if_neg (by simp [hU])).symm.trans h
  cases hw : s.writeCtl n (s.reg a) with
  | ok _ u =>
    rw [hw] at run
    injection run with ht
    exact ⟨u, rfl, ht.symm⟩
  | stop o =>
    rw [hw, writeCtl_stop hw] at run
    cases run

/-- ECCFTL is set by a register-file error alone, which a core without ECC does not have, and no `wrctl` writes `exception`. -/
theorem exec_eccftlClear {i : Instr} (h : exec i s = .next t) (hs : s.EccftlClear) : t.EccftlClear := by
  by_cases hi : stU s.status = true ∨ ∀ n a, i ≠ .wrctl n a
  · exact (exec_noEccFrame hi h).eccftlClear hs
  · push Not at hi
    obtain ⟨hU, n, a, rfl⟩ := hi
    obtain ⟨u, hw, rfl⟩ := exec_wrctl_next (by simpa using hU) h
    have written := (writeCtl_written hw).trans (flushedBy_written u n)
    exact hs.congr written.cfg written.exception

theorem boundary_implemented (h : boundary s = .next t) (hs : s.Implemented) : t.Implemented := by
  cases boundary_cases h with
  | reset mem marks => exact { resetCore_implemented s with }
  | broke => exact { hs.breakEntry with }
  | raised x hu => exact (hu.implemented hs).take x
  | interrupted hu => exact (hu.implemented hs).interruptEntry _
  | ran i hu hx => exact exec_implemented hx (hu.implemented hs)

theorem interruptEntry_exception (s : State) (q : EicRequest) : (s.interruptEntry q).exception = s.exception := by
  have saved : (s.saveForInterrupt q).exception = s.exception := by
    unfold State.saveForInterrupt
    split
    · rfl
    · split <;> simp
  exact saved

theorem breakEntry_exception (s : State) : s.breakEntry.exception = s.exception := s.setGpr_exception 0 30#5 s.nextPc

theorem boundary_eccftlClear (h : boundary s = .next t) (hs : s.EccftlClear) : t.EccftlClear := by
  cases boundary_cases h with
  | reset mem marks => exact resetCore_eccftlClear s
  | broke => exact hs.congr (breakEntry_keeps s).cfg (breakEntry_exception s)
  | raised x _ hx => exact hx.eccftlClear hs
  | @interrupted u hu =>
    exact hs.congr ((interruptEntry_keeps u _).cfg.trans hu.cfg) ((interruptEntry_exception u _).trans hu.exception)
  | ran i hu hx => exact exec_eccftlClear hx (hu.toNoEccFrame.eccftlClear hs)

/-- Settles O57: every register that a step writes takes a value with its reserved bits 0, in each event of a boundary and each
kind of instruction; ECCFTL by the frame of a core without ECC. -/
theorem stepKeepsImplementedBits : Obligations.StepKeepsImplementedBits := by
  intro s t hstatus hspecial h
  obtain ⟨hs, hx⟩ := State.implemented_iff.1 ⟨hstatus, hspecial⟩
  have cleared : State.Implemented { s with eccBus := 0#30 } := { hs with }
  exact State.implemented_iff.2 ⟨boundary_implemented h cleared, boundary_eccftlClear h hx⟩

end

end Sys2Proof.Machine

/-! ## Every step keeps `pc` aligned (O59) -/

namespace Sys2Proof

/-- The vectors of a configuration (00_scope.md R7). -/
def Config.vectors (c : Config) : List Word := [c.resetAddr, c.exceptionAddr, c.breakAddr, c.fastTlbMissAddr]

/-- An admitted configuration has instruction addresses as its vectors (00_scope.md R7). -/
theorem Config.wf_vectors {c : Config} (h : c.wf = true) : ∀ v ∈ c.vectors, field v 0 2 = 0#2 := by
  unfold Config.wf at h
  simp only [Bool.and_eq_true, beq_iff_eq] at h
  simp only [Config.vectors, List.forall_mem_cons, List.not_mem_nil, false_implies, implies_true, field]
  tauto

namespace Machine

/-- The address is that of a vector, where the processor executes it (60_exceptions.md R450). -/
def AtVector (c : Config) (a : Word) : Prop := ∃ v ∈ c.vectors, a = c.vector v

theorem AtVector.aligned {c : Config} {a : Word} (h : AtVector c a) (hc : c.wf = true) : field a 0 2 = 0#2 := by
  obtain ⟨v, hv, rfl⟩ := h
  exact c.vector_aligned (Config.wf_vectors hc v hv)

section

variable {s t u : State}

theorem take_pc (s : State) (x : Exc) : AtVector s.cfg (s.take x).pc := by
  refine ⟨_, ?_, rfl⟩
  split <;> simp [Config.vectors]

theorem breakEntry_pc (s : State) : AtVector s.cfg s.breakEntry.pc := ⟨s.cfg.breakAddr, by simp [Config.vectors], rfl⟩

theorem resetCore_pc (s : State) : AtVector s.cfg s.resetCore.pc := ⟨s.cfg.resetAddr, by simp [Config.vectors], rfl⟩

/-- The instruction after an aligned one is aligned, where the sum wraps as well (10_state.md R26, R27). -/
theorem nextPc_aligned (h : s.PcAligned) : field s.nextPc 0 2 = 0#2 := by
  have hpc := (field_low_two s.pc).1 h
  rw [field_low_two, State.nextPc, BitVec.toNat_add, BitVec.toNat_ofNat]
  omega

theorem State.PcAligned.of_pc {a : Word} (hpc : t.pc = a) (ha : field a 0 2 = 0#2) : t.PcAligned :=
  (congrArg (field · 0 2) hpc).trans ha

theorem exec_pcAligned {i : Instr} (h : exec i s = .next t) (hc : s.cfg.wf = true) (hs : s.PcAligned) : t.PcAligned := by
  cases (exec_next h).control with
  | kept _ hpc =>
    rcases hpc with hnext | htarget
    · exact .of_pc hnext (nextPc_aligned hs)
    · exact htarget
  | @raised u x hu => exact (hu.cfg ▸ take_pc u x).aligned hc
  | wroteControl n v _ hw =>
    have hpc := ((writeCtl_written hw).trans (flushedBy_written _ n)).pc
    exact .of_pc (advance_pc hpc) (nextPc_aligned hs)
  | returned saved pc debug _ hpc => exact hpc
  | broke => exact (breakEntry_pc s).aligned hc

theorem boundary_pcAligned (h : boundary s = .next t) (hv : s.VectorsAligned) (hs : s.PcAligned) : t.PcAligned := by
  obtain ⟨hc, hrha⟩ := hv
  cases boundary_cases h with
  | reset mem marks => exact (resetCore_pc s).aligned hc
  | broke => exact (breakEntry_pc s).aligned hc
  | @raised u x hu => exact (hu.cfg ▸ take_pc u x).aligned hc
  | interrupted hu => exact hu.eic ▸ hrha
  | ran i hu hx => exact exec_pcAligned hx (hu.cfg ▸ hc) (.of_pc hu.pc hs)

/-- No step changes the handler address of the EIC's request (60_exceptions.md R444). -/
theorem step_rha (h : step s = .next t) : t.eic.rha = s.eic.rha := by
  rcases boundary_next h with ⟨mem, marks, rfl⟩ | rfl | hk
  · rfl
  · exact congrArg EicRequest.rha (breakEntry_keeps { s with eccBus := 0#30 }).eic
  · exact congrArg EicRequest.rha hk.eic

/-- Settles O59: `pc` goes to the next instruction, to a target that a transfer checked, to a vector or to the EIC's handler. -/
theorem stepKeepsPcAligned : Obligations.StepKeepsPcAligned := fun _ _ hv hs h =>
  ⟨⟨(step_cfg h).symm ▸ hv.1, (step_rha h).symm ▸ hv.2⟩, boundary_pcAligned h hv hs⟩

end

end Machine

end Sys2Proof

/-! ## User mode is contained (O60) -/

namespace Sys2Proof.Machine

open Sys2Proof

/-- The model's vector address is that of the statements: the kernel partition's high bits before the low 29 bits. -/
theorem vector_eq_vectorOf (c : Config) (v : Word) : c.vector v = vectorOf c v := by
  unfold Config.vector vectorOf
  split
  · apply BitVec.eq_of_getLsbD_eq
    intro i hi
    rw [BitVec.getLsbD_or, BitVec.getLsbD_and, BitVec.getLsbD_append, BitVec.getLsbD_extractLsb']
    interval_cases i <;> simp
  · rfl

theorem stU_normStatus (c : Config) {w : Word} (h : stU w = false) : stU (c.normStatus w) = false := by
  have hb := c.bit_normStatus w 1 (by omega)
  unfold stU at *
  rw [hb, h, Bool.false_and]

/-- A break leaves user mode (60_exceptions.md R460). -/
theorem stU_breakStatus (c : Config) (w : Word) : stU (breakStatus c w) = false := by
  refine stU_normStatus c ?_
  simp only [stU, setCrs, setPrs, setEh, setU]
  rw [bit_setField_other _ _ _ _ (by omega), bit_setField_other _ _ _ _ (by omega), bit_setBit_other _ _ _ _ (by omega),
    bit_setBit_same _ _ _ (by omega)]

/-- So does an external interrupt (60_exceptions.md R455). -/
theorem stU_interruptStatus (c : Config) (w : Word) (q : EicRequest) (ani : Bool) : stU (interruptStatus c w q ani) = false := by
  have user : ∀ w, stU (setCrs q.rrs (setIl q.ril (setNmi q.rnmi (setIh true (setRsie false (setU false (setEh true w)))))))
      = false := fun w => by
    simp only [stU, setCrs, setIl, setNmi, setIh, setRsie, setU]
    rw [bit_setField_other _ _ _ _ (by omega), bit_setField_other _ _ _ _ (by omega), bit_setBit_other _ _ _ _ (by omega),
      bit_setBit_other _ _ _ _ (by omega), bit_setBit_other _ _ _ _ (by omega), bit_setBit_same _ _ _ (by omega)]
  refine stU_normStatus c ?_
  split
  · exact (bit_setBit_other _ _ _ _ (by omega)).trans (user _)
  · exact user _

/-- What a step from user mode does: nothing to the control registers, the MPU and, without ECC, the TLB; or it arrives in
supervisor mode at a vector or at the EIC's handler (60_exceptions.md R451). -/
def Contained (s t : State) : Prop :=
  (SameControl s t ∧ NoEccFrame s t) ∨ (stU t.status = false ∧ (t.pc = s.eic.rha ∨ AtVector s.cfg t.pc))

section

variable {s t u : State}

theorem Contained.after (h : Before s u) (hu : Contained u t) : Contained s t := by
  rcases hu with ⟨hc, hf⟩ | hsup
  · exact .inl ⟨h.toSameControl.trans hc, h.toNoEccFrame.trans hf⟩
  · exact .inr (h.eic ▸ h.cfg ▸ hsup)

theorem take_contained (h : SameControl s u) (x : Exc) : Contained s (u.take x) :=
  .inr ⟨(entryStatus_mode u.cfg u.status).1, .inr (h.cfg ▸ take_pc u x)⟩

theorem exec_contained {i : Instr} (hU : stU s.status = true) (h : exec i s = .next t) : Contained s t := by
  have supervisor : stU s.status = false → Contained s t := fun hU' => absurd (hU.symm.trans hU') nofun
  have frame := exec_noEccFrame (.inl hU) h
  cases (exec_next h).control with
  | kept hk => exact .inl ⟨hk, frame⟩
  | raised x hu => exact take_contained hu x
  | wroteControl n v hU' => exact supervisor hU'
  | returned saved pc debug hU' => exact supervisor hU'
  | broke => exact .inr ⟨stU_breakStatus _ _, .inr (breakEntry_pc s)⟩

theorem boundary_contained (hU : stU s.status = true) (h : boundary s = .next t) : Contained s t := by
  cases boundary_cases h with
  | reset mem marks => exact .inr ⟨(by decide : stU Sys2Proof.resetStatus = false), .inr (resetCore_pc s)⟩
  | broke => exact .inr ⟨stU_breakStatus _ _, .inr (breakEntry_pc s)⟩
  | raised x hu => exact take_contained hu x
  | interrupted hu => exact .inr ⟨stU_interruptStatus _ _ _ _, .inl (congrArg EicRequest.rha hu.eic)⟩
  | ran i hu hx => exact .after hu (exec_contained (hu.status ▸ hU) hx)

/-- Settles O60: in user mode no instruction writes a control register, and what leaves the mode goes where hardware sends it. -/
theorem userModeContained : Obligations.UserModeContained := by
  intro s t hU h
  rcases boundary_contained (s := { s with eccBus := 0#30 }) hU h with ⟨hc, hf⟩ | ⟨hS, hpc⟩
  · exact ⟨fun _ => ⟨hc.status, hc.estatus, hc.bstatus, hc.ienable, hc.exception, hc.pteaddr, hc.tlbacc, hc.tlbmisc, hc.badaddr,
      hc.config, hc.mpubase, hc.mpuacc, hc.iregions, hc.dregions, fun he => ⟨hf.tlb he, hf.eccinj he⟩⟩,
      fun hS => absurd ((hc.status ▸ hU : stU t.status = true).symm.trans hS) nofun⟩
  · refine ⟨fun hU' => absurd (hU'.symm.trans hS) nofun, fun _ => hpc.imp id ?_⟩
    rintro ⟨v, hv, hpc⟩
    exact ⟨v, hv, hpc.trans (vector_eq_vectorOf s.cfg v)⟩

end

end Sys2Proof.Machine

/-! ## Every step keeps memory canonical (O56)

`Inner` says that the memory system keeps the canonical form of what it writes; this layer adds the register file's marks, which the
register writes change, and follows the step from its fetch to its event or instruction. -/

namespace Sys2Proof.Machine

open Sys2Proof

/-- Every state that the answer gives is canonical. -/
def AnswersCanonical (r : Result) : Prop := ∀ t, r = .next t → t.Canonical

/-- As `Flow.LinesWhole`, for the canonical form. -/
def Flow.Canonical {α : Type} (m : Flow α) : Prop :=
  match m with
  | .ok _ t => t.Canonical
  | .stop o => AnswersCanonical o

section

variable {s t u : State}

/-- The memory system keeps the form. -/
theorem Inner.canonical (h : Inner s t) (hs : s.Canonical) : t.Canonical := by
  obtain ⟨mem, rf, tcm, prefetched, readAhead⟩ := hs
  exact ⟨h.memWf mem, h.rfEcc ▸ rf, h.tcmWf tcm, h.prefetchedWf prefetched, h.readAheadWf readAhead⟩

namespace State.Canonical

/-! ### Registers and events -/

theorem pipelineFlushed (h : s.Canonical) : s.pipelineFlushed.Canonical := by
  obtain ⟨mem, rf, tcm, -, readAhead⟩ := h
  exact ⟨mem, rf, tcm, rfl, readAhead⟩

theorem storeGpr (h : s.Canonical) (set : Nat) (r : RegIdx) (v : Word) : (s.storeGpr set r v).Canonical := by
  unfold State.storeGpr
  split <;> exact h

theorem setRfMark_wf (h : s.Canonical) (k : Nat) (m : EccMark) :
    sparseWf EccMark.none (sparseSet EccMark.none s.rfEcc k m) = true := by
  obtain ⟨-, rf, -⟩ := h
  exact sparseSet_wf _ _ _ _ rf

/-- Other marks of the register file, in canonical form. -/
theorem setRfEcc (h : s.Canonical) {marks : List (Nat × EccMark)} (hw : sparseWf EccMark.none marks = true) :
    State.Canonical { s with rfEcc := marks } := by
  obtain ⟨mem, -, tcm, prefetched, readAhead⟩ := h
  exact ⟨mem, hw, tcm, prefetched, readAhead⟩

theorem setGpr (h : s.Canonical) (set : Nat) (r : RegIdx) (v : Word) : (s.setGpr set r v).Canonical := by
  have stored := h.storeGpr set r (s.rfWord v)
  unfold State.setGpr State.rfWritten
  split
  · exact h
  · split
    · exact ((inner_injectionDone _ injRf).canonical stored).setRfEcc (stored.setRfMark_wf _ _)
    · exact stored

theorem setReg (h : s.Canonical) (r : RegIdx) (v : Word) : (s.setReg r v).Canonical := by
  unfold State.setReg
  split
  · exact h
  · exact h.setGpr _ r v

theorem setLoaded (h : s.Canonical) (r : RegIdx) (v : Word) : (s.setLoaded r v).Canonical := by
  rcases s.setLoaded_cases r v with he | he
  · exact he ▸ h.setReg r v
  · exact he ▸ h.setGpr _ r v

/-- An exception (60_exceptions.md R450). -/
theorem take (h : s.Canonical) (x : Exc) : (s.take x).Canonical := by
  have saved : (s.saveForEntry s.nextPc).Canonical := by
    unfold State.saveForEntry
    split
    · exact h
    · exact h.setGpr 0 29#5 s.nextPc
  obtain ⟨mem, -, tcm, -, readAhead⟩ := h
  obtain ⟨-, rf, -⟩ := saved
  rw [State.take, State.nonbreakEntry_only]
  exact ⟨mem, rf, tcm, rfl, readAhead⟩

/-- A break (60_exceptions.md R460). -/
theorem breakEntry (h : s.Canonical) : s.breakEntry.Canonical := (h.setGpr 0 30#5 s.nextPc).pipelineFlushed

/-- An external interrupt (60_exceptions.md R455). -/
theorem interruptEntry (h : s.Canonical) (q : EicRequest) : (s.interruptEntry q).Canonical := by
  have saved : (s.saveForInterrupt q).Canonical := by
    unfold State.saveForInterrupt
    split
    · exact h
    · split
      · exact h.setGpr 0 29#5 s.nextPc
      · exact (h.setGpr _ _ _).setGpr _ _ _
  exact saved.pipelineFlushed

/-! ### Control registers -/

theorem ctlRead (h : s.Canonical) (n : BitVec 5) : (s.ctlRead n).Canonical := by
  unfold State.ctlRead
  split <;> exact h

theorem writeTlbacc (h : s.Canonical) (v : Word) : (s.writeTlbacc v).Canonical := by
  have injected : (State.injectionDone { s with tlbacc := v &&& 0x01FFFFFF#32 } injTlb).Canonical :=
    (inner_injectionDone _ injTlb).canonical h
  unfold State.writeTlbacc
  dsimp only
  split
  · split
    · exact injected
    · exact h
  · exact h

theorem readTlb (h : s.Canonical) : s.readTlb.Canonical := by
  unfold State.readTlb
  dsimp only
  split
  · split <;> exact h
  · exact h

theorem writeTlbmisc (h : s.Canonical) (v : Word) : (s.writeTlbmisc v).Canonical := by
  unfold State.writeTlbmisc
  dsimp only
  split
  · exact State.Canonical.readTlb (s := { s with tlbmisc := s.tlbmiscWritten v }) h
  · exact h

theorem of_ok (hw : (.ok () t : Flow Unit) = .ok () u) (h : t.Canonical) : u.Canonical := by
  injection hw with _ hw
  exact hw ▸ h

theorem of_writeWhen {present : Bool} (hw : writeWhen present s t = .ok () u) (hs : s.Canonical) (ht : t.Canonical) :
    u.Canonical := by
  cases present
  · exact of_ok hw hs
  · exact of_ok hw ht

theorem mpuRegionRead (h : s.Canonical) : s.mpuRegionRead.Canonical := by
  unfold State.mpuRegionRead
  split <;> exact h

theorem mpuRegionWrite (h : s.Canonical) : s.mpuRegionWrite.Canonical := by
  unfold State.mpuRegionWrite
  dsimp only
  split <;> exact h

theorem of_writeMpuacc {v : Word} (hw : s.writeMpuacc v = .ok () u) (h : s.Canonical) : u.Canonical := by
  unfold State.writeMpuacc at hw
  dsimp only at hw
  split at hw
  · split at hw
    · cases hw
    · exact of_ok hw h.mpuRegionRead
  · split at hw
    · exact of_ok hw (State.Canonical.mpuRegionWrite h)
    · exact of_ok hw h

/-- One case for each register, in the order of their numbers. -/
theorem of_writeCtl {n : BitVec 5} {v : Word} (hw : s.writeCtl n v = .ok () u) (h : s.Canonical) : u.Canonical := by
  unfold State.writeCtl at hw
  split at hw
  · exact of_ok hw h
  · exact of_ok hw h
  · exact of_ok hw h
  · exact of_writeWhen hw h h
  · exact of_writeWhen hw h h
  · exact of_writeWhen hw h (h.writeTlbacc v)
  · exact of_writeWhen hw h (h.writeTlbmisc v)
  · exact of_writeWhen hw h h
  · exact of_ok hw h
  · exact of_writeWhen hw h h
  · split at hw
    · exact of_writeMpuacc hw h
    · exact of_ok hw h
  · exact of_ok hw h

theorem flushedBy (h : s.Canonical) (n : BitVec 5) : (s.flushedBy n).Canonical := by
  unfold State.flushedBy
  split
  · exact h
  · exact h.pipelineFlushed

end State.Canonical

/-! ### Reset (70_reset_and_hazards.md R520, R522) -/

/-- Marks written one by one. -/
theorem freeMarks_wf (c : Config) (draw : Nat) (keys : List Nat) : sparseWf EccMark.none (freeMarks c draw keys) = true :=
  List.foldlRecOn (motive := fun m => sparseWf EccMark.none m = true) _ _ rfl fun _ hm _ _ => sparseSet_wf _ _ _ _ hm

/-- Marks that exist on a core with ECC only. -/
theorem ite_freeMarks_wf (p : Bool) (c : Config) (draw : Nat) (keys : List Nat) :
    sparseWf EccMark.none (if p then freeMarks c draw keys else []) = true := by
  split
  · exact freeMarks_wf c draw keys
  · rfl

/-- A reset that keeps memory and its marks. -/
theorem resetCore_canonical (h : s.Canonical) : s.resetCore.Canonical := by
  obtain ⟨mem, -, tcm, -, -⟩ := h
  exact ⟨mem, ite_freeMarks_wf _ _ _ _, tcm, rfl, rfl⟩

/-- A reset that leaves memory undefined puts every byte of it in place anew. -/
theorem resetAll_canonical (s : State) : s.resetAll.Canonical :=
  ⟨Memory.ofCells_wf _, ite_freeMarks_wf _ _ _ _, ite_freeMarks_wf _ _ _ _, rfl, rfl⟩

/-! ### An instruction -/

theorem ExecNext.canonical (h : ExecNext s t) (hs : s.Canonical) : t.Canonical := by
  cases h with
  | raised x hu => exact (hu.canonical hs).take x
  | moved pc hu => exact hu.canonical hs
  | wrote r v pc hu => exact (hu.canonical hs).setReg r v
  | loaded r v hu => exact (hu.canonical hs).setLoaded r v
  | custom logic r v => exact State.Canonical.setReg (s := { s with customState := logic }) hs r v
  | readControl n r v => exact (hs.ctlRead n).setReg r v
  | wroteControl n v _ hw => exact (State.Canonical.of_writeCtl hw hs).flushedBy n
  | wrotePrevious r v => exact (hs.setGpr s.prs r v).pipelineFlushed
  | flushed => exact hs.pipelineFlushed
  | returned saved pc debug => exact hs.pipelineFlushed
  | broke => exact hs.breakEntry

/-! ### A step -/

namespace AnswersCanonical

theorem next (h : t.Canonical) : AnswersCanonical (.next t) := fun u hu => by
  injection hu with hu
  exact hu ▸ h

theorem raise (h : s.Canonical) (x : Exc) : AnswersCanonical (raise x s) := next (h.take x)

theorem fault (f : Fault) : AnswersCanonical (.fault f) := fun _ h => by cases h

theorem refused (r : Refusal) : AnswersCanonical (.refused r) := fun _ h => by cases h

theorem exec (h : s.Canonical) (i : Instr) : AnswersCanonical (exec i s) := fun _ ht => (exec_next ht).canonical h

end AnswersCanonical

theorem Flow.Within.canonical {α : Type} {m : Flow α} (hm : m.Within s) (h : s.Canonical) : m.Canonical := by
  cases m with
  | ok a t => exact Inner.canonical hm h
  | stop o =>
    rcases hm with ⟨x, u, hu, rfl⟩ | ⟨f, rfl⟩
    · exact .raise (hu.canonical h) x
    · exact .fault f

theorem Flow.Canonical.bind {α : Type} {m : Flow α} {k : α → State → Result} (hm : m.Canonical)
    (hk : ∀ a u, u.Canonical → AnswersCanonical (k a u)) : AnswersCanonical (m.bind k) := by
  cases m with
  | ok a u => exact hk a u hm
  | stop o => exact hm

theorem Flow.Canonical.andThen {α β : Type} {m : Flow α} {k : α → State → Flow β} (hm : m.Canonical)
    (hk : ∀ a u, u.Canonical → (k a u).Canonical) : (m.andThen k).Canonical := by
  cases m with
  | ok a u => exact hk a u hm
  | stop o => exact hm

theorem readSource_canonical (r : RegRef) (h : s.Canonical) : (readSource r s).Canonical := by
  unfold readSource
  split
  · exact h
  · exact (h.storeGpr r.1 r.2 _).setRfEcc (h.setRfMark_wf _ _)
  · exact .raise (s := s.signal 2) h _
  · exact h.storeGpr r.1 r.2 _

theorem readSources_canonical (rs : List RegRef) (h : s.Canonical) : (readSources rs s).Canonical := by
  induction rs generalizing s with
  | nil => exact h
  | cons r rs ih => exact (readSource_canonical r h).andThen fun _ u hu => ih hu

theorem takeLate_canonical (x : LateExc) (h : s.Canonical) : (s.takeLate x).Canonical := by
  cases x with
  | mpuInstr => exact h.take _
  | eccFetch k => exact State.Canonical.take (s := s.signal _) h _

theorem runDecoded_canonical (i : Instr) (f : Fetched) (h : s.Canonical) : AnswersCanonical (runDecoded i f s) := by
  unfold runDecoded
  refine (readSources_canonical _ h).bind fun _ u hu => ?_
  split
  · exact .next (takeLate_canonical _ hu)
  · split
    · split
      · exact .exec h i
      · exact .exec hu i
    · exact .refused _

theorem runUndecoded_canonical (f : Fetched) (h : s.Canonical) : AnswersCanonical (runUndecoded f s) := by
  unfold runUndecoded
  split
  · exact .next (takeLate_canonical _ h)
  · split
    · exact .fault _
    · rcases illegalInstruction_cases s with ⟨-, he⟩ | ⟨-, he⟩
      · exact he ▸ .next (h.take _)
      · exact he ▸ .fault _

theorem runWord_canonical (f : Fetched) (h : s.Canonical) : AnswersCanonical (runWord f s) := by
  unfold runWord
  split
  · exact runDecoded_canonical _ f h
  · exact runUndecoded_canonical f h

theorem fetchAndRun_canonical (h : s.Canonical) : AnswersCanonical (fetchAndRun s) := by
  unfold fetchAndRun
  split
  · exact ((fetch_within s).canonical h).bind fun f u hu => runWord_canonical f hu
  · exact .fault _

theorem takeExternal_canonical (h : s.Canonical) : AnswersCanonical (takeExternal s) := by
  unfold takeExternal
  split
  · exact .next (h.interruptEntry _)
  · exact .refused _

theorem interruptOrRun_canonical (h : s.Canonical) : AnswersCanonical (interruptOrRun s) := by
  unfold interruptOrRun
  split
  · exact .raise h _
  · split
    · exact takeExternal_canonical h
    · exact fetchAndRun_canonical h

theorem writebackOr_canonical (h : s.Canonical) : AnswersCanonical (writebackOr s interruptOrRun) := by
  unfold writebackOr
  split
  · split
    · exact .raise (s := { s.drawn with wbError := false }) h _
    · exact interruptOrRun_canonical (s := s.drawn) h
  · exact interruptOrRun_canonical h

/-- The events of a boundary in their order (60_exceptions.md R440). -/
theorem boundary_canonical (h : s.Canonical) : AnswersCanonical (boundary s) := by
  unfold boundary
  split
  · exact .next (resetAll_canonical s)
  · split
    · exact .fault _
    · split
      · exact .next h.breakEntry
      · split
        · exact .next (resetCore_canonical h)
        · exact writebackOr_canonical h

end

/-- Settles O56: a step is an event or an instruction, run on a canonical state, and each of them leaves one. -/
theorem stepKeepsCanonical : Obligations.StepKeepsCanonical := fun s t hs h =>
  boundary_canonical (s := { s with eccBus := 0#30 }) hs t h

end Sys2Proof.Machine

/-! ## What a fetch reads (O24, O25)

Without ECC nothing is corrected on the way: a translation answers its address and leaves the state, and the fetch of a physical address
answers the word of memory or of the line, or another word that may still run. -/

namespace Sys2Proof

/-- Four bytes as a word, the lowest address in the lowest bits (20_memory.md R107). -/
theorem wordOfByteList_four (b0 b1 b2 b3 : Byte) : wordOfByteList [b0, b1, b2, b3] = b3 ++ b2 ++ b1 ++ b0 := by
  apply BitVec.eq_of_getLsbD_eq
  intro i hi
  simp only [wordOfByteList, zext, BitVec.getLsbD_or, BitVec.getLsbD_shiftLeft, BitVec.getLsbD_setWidth,
    BitVec.getLsbD_append]
  interval_cases i <;> simp

theorem wordOfBytes_eq (b0 b1 b2 b3 : Byte) : wordOfBytes b0 b1 b2 b3 = b3 ++ b2 ++ b1 ++ b0 := by
  apply BitVec.eq_of_getLsbD_eq
  intro i hi
  simp only [wordOfBytes, BitVec.getLsbD_or, getLsbD_place, BitVec.getLsbD_append]
  interval_cases i <;> simp

/-- A word made of four bytes decodes as those bytes do. -/
theorem decode_bytesOfWord_append (b0 b1 b2 b3 : Byte) :
    decode (bytesOfWord (b3 ++ b2 ++ b1 ++ b0)) = decode [b0, b1, b2, b3] := by
  rw [← wordOfBytes_eq]
  simp only [bytesOfWord, decode, wordOfBytes_bytesOfWord]

/-- Bytes from inside a list of them. -/
theorem take_drop_eq_map {data : List Byte} {off n : Nat} (h : off + n ≤ data.length) :
    (data.drop off).take n = (List.range n).map (fun k => data.getD (off + k) 0#8) := by
  apply List.ext_getElem
  · simp
    omega
  · intro i hi _
    have hlt : off + i < data.length := by simp at hi; omega
    simp [hlt]

theorem wordOfByteList_take_drop {data : List Byte} {off : Nat} (h : off + 4 ≤ data.length) :
    wordOfByteList ((data.drop off).take 4)
      = data.getD (off + 3) 0#8 ++ data.getD (off + 2) 0#8 ++ data.getD (off + 1) 0#8 ++ data.getD off 0#8 := by
  rw [take_drop_eq_map h]
  exact wordOfByteList_four _ _ _ _

/-- A cache that 00_scope.md R7 admits and that is there has a line. -/
theorem cacheLines_pos {n : Nat} (h : n ∈ [0, 512, 1024, 2048, 4096, 8192, 16384, 32768, 65536]) (h0 : n ≠ 0) : 0 < n / 32 := by
  simp only [List.mem_cons, List.not_mem_nil, or_false] at h
  omega

theorem Config.icacheLines_pos {c : Config} (h : c.wf = true) (h0 : c.icacheSize ≠ 0) : 0 < c.icacheSize / 32 := by
  refine cacheLines_pos ?_ h0
  unfold Config.icacheSize
  split
  · unfold Config.wf at h
    simp only [Bool.and_eq_true, decide_eq_true_eq] at h
    tauto
  · simp

namespace Machine

variable {s s1 : State} {va : Word} {p : Nat}

/-! ### The physical address -/

theorem tlbFatal_noEcc (s : State) (vpn : BitVec 20) (h : s.cfg.ecc = false) : s.tlbFatal vpn = false := by
  simp [State.tlbFatal, State.eccRead_noEcc s _ h]

theorem tlbSettled_noEcc (s : State) (vpn : BitVec 20) (h : s.cfg.ecc = false) : s.tlbSettled vpn = s := by
  simp [State.tlbSettled, h]

/-- Without ECC the entries found are those that match. -/
theorem tlbHits_noEcc (s : State) (vpn : BitVec 20) (es : List TlbEntry) (way : Nat) (h : s.cfg.ecc = false) :
    s.tlbHits vpn es way = es.filter (s.tlbMatches vpn) := by
  induction es generalizing way with
  | nil => rfl
  | cons e es ih =>
    simp only [State.tlbHits, State.eccRead_noEcc s _ h, s.tlbSeen_noEcc _ _ h, ih, List.filter_cons]

/-- The address bits of the partition that bypasses the TLB (21_mmu_mpu.md R152). -/
theorem bypassesTlb_iff (va : Word) : bypassesTlb va = true ↔ 0xC0000000 ≤ va.toNat := by
  have hlt := va.isLt
  have hf : (field va 30 2).toNat = va.toNat / 2 ^ 30 % 4 := by
    simp [field, BitVec.extractLsb'_toNat, Nat.shiftRight_eq_div_pow]
  rw [bypassesTlb, beq_iff_eq, ← BitVec.toNat_inj, hf]
  simp only [BitVec.toNat_ofNat]
  omega

/-- The kernel and I/O partitions drop the top three bits (21_mmu_mpu.md R153). -/
theorem lowPhysical_eq (va : Word) : lowPhysical va = va.toNat % 2 ^ 29 := by
  rw [lowPhysical, BitVec.toNat_and]
  exact Nat.and_two_pow_sub_one_eq_mod va.toNat 29

theorem framePhysical_eq (pfn : BitVec 20) (va : Word) : framePhysical pfn va = pfn.toNat * 4096 + va.toNat % 4096 := by
  simp [framePhysical, field, BitVec.extractLsb'_toNat]

/-- A fetch outside the upper partition that one TLB entry matches and lets execute (21_mmu_mpu.md R168). -/
theorem mmuFetch_hit {e : TlbEntry} (h : s.cfg.ecc = false) (hu : (stU s.status && bit va 31) = false)
    (hva : va.toNat < 0xC0000000) (he : s.tlbFinds (va.extractLsb' 12 20) = [e]) (hx : e.x = true) :
    mmuFetch va s = .ok (e.pfn.toNat * 4096 + va.toNat % 4096) s := by
  have hb : bypassesTlb va = false := Bool.eq_false_iff.2 (mt (bypassesTlb_iff va).1 (by omega))
  have hits : s.tlbHits (vpnOf va) (s.tlbWaysOf (vpnOf va)) 0 = [e] := (tlbHits_noEcc s _ _ _ h).trans he
  simp only [mmuFetch, hb, tlbFatal_noEcc s _ h, hu, tlbLookup, hits, tlbSettled_noEcc s _ h, hx, framePhysical_eq,
    Bool.false_eq_true, if_false, if_true]

/-- A fetch of supervisor mode from the upper partition (21_mmu_mpu.md R153, R168). -/
theorem mmuFetch_bypass (hu : stU s.status = false) (hva : 0xC0000000 ≤ va.toNat) :
    mmuFetch va s = .ok (va.toNat % 2 ^ 29) s := by
  simp only [mmuFetch, (bypassesTlb_iff va).2 hva, hu, lowPhysical_eq, Bool.false_eq_true, if_false, if_true]

/-- Where every region is aligned to its size the first that matches decides (21_mmu_mpu.md R174). -/
theorem decidingRegion_eq_find? (c : Config) {gs : List MpuRegion} (a : Nat) (h : ∀ g ∈ gs, regionMisaligned c g = false) :
    decidingRegion c gs a = .ok (gs.find? (fun g => regionMatches c g a)) := by
  induction gs with
  | nil => rfl
  | cons g gs ih =>
    rw [decidingRegion, h g List.mem_cons_self, List.find?_cons, ih fun g' hg => h g' (List.mem_cons_of_mem g hg)]
    cases regionMatches c g a <;> rfl

theorem permExecute_granted {perm : BitVec 3} {user : Bool} (h : perm = 2#3 ∨ (perm = 1#3 ∧ user = false)) :
    permExecute perm user = some true := by
  rcases h with rfl | ⟨rfl, rfl⟩ <;> rfl

/-- A fetch whose deciding region grants execution (21_mmu_mpu.md R175, R176). -/
theorem mpuFetch_granted {g : MpuRegion} (hon : s.mpuOn = true) (ha : ∀ g ∈ s.iregions, regionMisaligned s.cfg g = false)
    (hw : va.toNat < 2 ^ s.cfg.iaddrWidth) (hg : s.iregions.find? (fun g => regionMatches s.cfg g va.toNat) = some g)
    (hp : g.perm = 2#3 ∨ (g.perm = 1#3 ∧ stU s.status = false)) : mpuFetch va s = .ok false s := by
  simp only [mpuFetch, hon, inWidth, hw, decide_true, if_true, decidingRegion_eq_find? _ _ ha, hg, permExecute_granted hp,
    Bool.not_true]

theorem mpuFetch_off (hoff : s.mpuOn = false) : mpuFetch va s = .ok false s := by
  simp only [mpuFetch, hoff, Bool.false_eq_true, if_false]

theorem fetch_mmu (ha : s.PcAligned) (hm : s.cfg.mmu = true) (ht : mmuFetch s.pc s = .ok p s) :
    fetch s = fetchAt s.pc p s := by
  unfold fetch
  rw [if_pos (show field s.pc 0 2 = 0#2 from ha), if_pos hm, ht]
  rfl

/-- A fetch without an MMU that violates no MPU region. -/
theorem fetch_flat (ha : s.PcAligned) (hm : s.cfg.mmu = false) (ht : mpuFetch s.pc s = .ok false s) :
    fetch s = fetchAt s.pc s.pc.toNat s := by
  unfold fetch
  rw [if_pos (show field s.pc 0 2 = 0#2 from ha), if_neg (by simp [hm]), ht]
  show (fetchAt s.pc s.pc.toNat s).andThen (fun w s2 => .ok w s2) = _
  cases fetchAt s.pc s.pc.toNat s <;> rfl

/-! ### The word at a physical address -/

/-- What a bus read leaves: at most a draw. -/
theorem busReadState_only (ram : Nat → Bool) (s : State) (a n : Nat) :
    busReadState ram s a n = { s with draws := (busReadState ram s a n).draws } := by
  unfold busReadState
  split <;> rfl

/-- Past the instruction cache a fetch reads memory, in a tightly-coupled memory as elsewhere. -/
theorem physFetch_uncached (h : s.cfg.ecc = false)
    (hc : ¬ (s.cfg.icacheSize ≠ 0 ∧ ¬ tcmNumber s.cfg.itcms p ≠ none ∧ inTcm s.cfg.dtcms p = false)) :
    physFetch va p s = .ok { word := wordOfByteList (busBytes s.cfg.fetchRam s p 4), late := none }
      (busReadState s.cfg.fetchRam s p 4) := by
  unfold physFetch
  split
  · simp only [tcmRead, State.eccRead_noEcc s _ h, Flow.andThen]
  · next hn =>
    have hd : (s.cfg.icacheSize != 0 && !inTcm s.cfg.dtcms p) = false := by
      rw [hn] at hc
      simpa [or_iff_not_imp_left] using hc
    rw [if_neg (by simp [hd])]

theorem irefetch_noEcc (s : State) (l : CacheLine) (h : s.cfg.ecc = false) : s.irefetch l = false := by
  simp [State.irefetch, h]

theorem icacheRead_hit (h : s.cfg.ecc = false)
    (hit : (s.iline (va.toNat / 32 % (s.cfg.icacheSize / 32))).valid = true
      ∧ (s.iline (va.toNat / 32 % (s.cfg.icacheSize / 32))).line = p / 32) :
    icacheRead va p s = .ok (lineBytes (s.iline (va.toNat / 32 % (s.cfg.icacheSize / 32))) (p % 32) 4) s := by
  obtain ⟨hv, hl⟩ := hit
  simp only [icacheRead, lineIndex, irefetch_noEcc s _ h, hv, hl]
  simp

theorem icacheRead_miss (h : s.cfg.ecc = false)
    (miss : ¬ ((s.iline (va.toNat / 32 % (s.cfg.icacheSize / 32))).valid = true
      ∧ (s.iline (va.toNat / 32 % (s.cfg.icacheSize / 32))).line = p / 32)) :
    icacheRead va p s =
      .ok (((s.ifillBytes p).drop (p % 32)).take 4) (s.ifill (va.toNat / 32 % (s.cfg.icacheSize / 32)) p) := by
  simp only [icacheRead, lineIndex, irefetch_noEcc s _ h]
  rw [if_neg (by simpa using miss)]
  simp

/-- Through the instruction cache, where there is one and no tightly-coupled memory holds the address. -/
theorem physFetch_cached {bs : List Byte}
    (hc : s.cfg.icacheSize ≠ 0 ∧ ¬ tcmNumber s.cfg.itcms p ≠ none ∧ inTcm s.cfg.dtcms p = false)
    (hr : icacheRead va p s = .ok bs s1) : physFetch va p s = .ok { word := wordOfByteList bs, late := none } s1 := by
  obtain ⟨hi, ht, hd⟩ := hc
  unfold physFetch
  rw [not_not.1 ht, hr]
  simp [hi, hd, Flow.andThen]

/-- A fill without ECC: one line replaced, a draw used where the platform has no memory. -/
theorem ifill_noEcc (s : State) (i a : Nat) (h : s.cfg.ecc = false) :
    s.ifill i a = (busReadState s.cfg.ilineRam s (a / 32 * 32) 32).setIline i
      (filledLine s.cfg.itagUnit (a / 32) (s.ifillBytes a) [] []) := by
  have hc : ∀ l, ((busReadState s.cfg.ilineRam s (a / 32 * 32) 32).setIline i l).cfg.ecc = false := fun l => by
    rw [State.setIline_cfg, (inner_busReadState _ s _ _).cfg, h]
  unfold State.ifill
  simp only [s.injectedBits_noEcc _ _ h]
  rw [State.injectionDone_noEcc _ _ (hc _), State.injectionDone_noEcc _ _ (hc _)]

theorem iline_congr (h : s1.icache = s.icache) (j : Nat) : s1.iline j = s.iline j := by
  rw [State.iline, State.iline, h]

theorem iline_setIline (s : State) (i j : Nat) (l : CacheLine) (hi : i < s.icache.length) :
    (s.setIline i l).iline j = if j = i then l else s.iline j := by
  unfold State.iline State.setIline
  simp only [List.getD_eq_getElem?_getD, List.getElem?_set]
  by_cases h : j = i
  · subst h
    simp [hi]
  · simp [h, Ne.symm h]

/-- The lines after a fill. -/
theorem iline_ifill (s : State) (i j a : Nat) (h : s.cfg.ecc = false) (hi : i < s.icache.length) :
    (s.ifill i a).iline j = if j = i then filledLine s.cfg.itagUnit (a / 32) (s.ifillBytes a) [] [] else s.iline j := by
  have hb := inner_busReadState s.cfg.ilineRam s (a / 32 * 32) 32
  have same : (busReadState s.cfg.ilineRam s (a / 32 * 32) 32).icache = s.icache := by
    rw [busReadState_only]
  rw [ifill_noEcc s i a h, iline_setIline _ _ _ _ (by rw [hb.icacheLength]; exact hi), iline_congr same]

theorem ifill_only (s : State) (i a : Nat) (h : s.cfg.ecc = false) :
    s.ifill i a = { s with
      icache := (s.ifill i a).icache, prefetched := (s.ifill i a).prefetched, draws := (s.ifill i a).draws } := by
  rw [ifill_noEcc s i a h, busReadState_only]
  rfl

/-- The byte `o` of a fill of the instruction cache. -/
theorem ifillBytes_getD (s : State) (a o : Nat) (ho : o < 32) : (s.ifillBytes a).getD o 0#8 =
    if s.cfg.ilineRam (a / 32 * 32 + o) then s.mem.read (a / 32 * 32 + o) else Config.freeByte s.draws o := by
  rw [State.ifillBytes, busBytes, List.getD_eq_getElem _ _ (by simpa using ho), List.getElem_map, List.getElem_range]

/-- A fetch of a physical address delivers the word found there, or by a free choice another that may run. -/
theorem fetchAt_found {w : Word} (h : physFetch va p s = .ok { word := w, late := none } s1) :
    ∃ (t : State) (f : Fetched) (d : Nat) (others : List Word), fetchAt va p s = .ok f t ∧ f.late = none
      ∧ t = { s1 with draws := t.draws } ∧ f.word = others.getD (Config.freeNat d) w ∧ ∀ x, x ∈ others ↔ s.MayRun va p x := by
  unfold fetchAt
  rw [h]
  simp only [Flow.andThen]
  by_cases hn : s.otherWords va p = []
  · exact ⟨s1, _, 0, [], if_pos hn, rfl, rfl, rfl, fun x => by rw [← mem_otherWords, hn]⟩
  · exact ⟨s1.drawn, _, s1.draws, s.otherWords va p, if_neg hn, rfl, rfl, rfl, mem_otherWords s va p⟩

/-- Where no other word may run, the one found there. -/
theorem fetchAt_only {w : Word} (h : physFetch va p s = .ok { word := w, late := none } s1)
    (hn : ∀ w, ¬ s.MayRun va p w) : fetchAt va p s = .ok { word := w, late := none } s1 := by
  have none : s.otherWords va p = [] := List.eq_nil_iff_forall_not_mem.2 fun w hw => hn w ((mem_otherWords s va p w).1 hw)
  unfold fetchAt
  rw [h]
  simp only [Flow.andThen, none, if_true]

/-- Settles O25: the address by the cases of the translation, the word by the cases of `physFetch`. -/
theorem fetchedWord : Obligations.FetchedWord := by
  intro s ha he hwf _ hl hlen va user reads tcm cached i hits bytes word found
  refine ⟨fun hm hu hva e hf hx => fetch_mmu ha hm (mmuFetch_hit he hu hva hf hx),
    fun hm hu hva => fetch_mmu ha hm (mmuFetch_bypass hu hva),
    fun hm hoff => fetch_flat ha hm (mpuFetch_off hoff),
    fun hm hon hal hw g hg hp => fetch_flat ha hm (mpuFetch_granted hon hal hw hg hp), fun p hp4 => ⟨fun hc => ?_, ?_, ?_⟩⟩
  · obtain ⟨t, f, d, others, hf, hlate, ht, hw, hm⟩ := fetchAt_found (physFetch_uncached (va := va) he hc)
    rw [busReadState_only] at ht
    refine ⟨t, ⟨f, d, others, hf, hlate, ?_, ?_, hm⟩, ?_, ?_⟩
    · rw [ht]
    · rw [hw]
      exact congrArg _ (wordOfByteList_four _ _ _ _)
    · rw [ht]
    · rw [ht]
  · intro hc hh
    have hdata : p % 32 + 4 ≤ (s.iline i).data.length := by rw [hl.iline i]; omega
    obtain ⟨t, f, d, others, hf, hlate, ht, hw, hm⟩ := fetchAt_found (physFetch_cached hc (icacheRead_hit he hh))
    refine ⟨t, ⟨f, d, others, hf, hlate, ?_, ?_, hm⟩, ?_, ?_⟩
    · rw [ht]
    · rw [hw, lineBytes, wordOfByteList_take_drop hdata]
      rfl
    · rw [ht]
    · rw [ht]
  · intro hc hn
    have hi : i < s.icache.length := hlen ▸ Nat.mod_lt _ (Config.icacheLines_pos hwf hc.1)
    have hdata : p % 32 + 4 ≤ (s.ifillBytes p).length := by rw [State.ifillBytes, busBytes_length]; omega
    obtain ⟨t, f, d, others, hf, hlate, ht, hw, hm⟩ := fetchAt_found (physFetch_cached hc (icacheRead_miss he hn))
    have filled : t.icache = (s.ifill i p).icache := by rw [ht]
    have lines : ∀ j, t.iline j = if j = i then filledLine s.cfg.itagUnit (p / 32) (s.ifillBytes p) [] [] else s.iline j := fun j =>
      (iline_congr filled j).trans (iline_ifill s i j p he hi)
    refine ⟨t, ⟨f, d, others, hf, hlate, ?_, ?_, hm⟩, ?_, ?_, ?_, fun j hj => ?_⟩
    · rw [ht, ifill_only s _ p he]
    · rw [hw, wordOfByteList_take_drop hdata, ifillBytes_getD _ _ _ (by omega), ifillBytes_getD _ _ _ (by omega),
        ifillBytes_getD _ _ _ (by omega), ifillBytes_getD _ _ _ (by omega)]
      rfl
    · rw [lines, if_pos rfl]
      rfl
    · rw [lines, if_pos rfl]
      rfl
    · intro o ho
      rw [lines, if_pos rfl]
      exact ifillBytes_getD s p o ho
    · rw [lines, if_neg hj]

/-- Settles O24: the fetch delivers the four bytes at `pc`, which decode to the instruction that the step then runs. -/
theorem stepRunsBytesAtPc : Obligations.StepRunsBytesAtPc := by
  intro s i hq hset ha hm hoff he hi hn hram bytes hdec hcan
  let s0 : State := { s with eccBus := 0#30 }
  let w : Word := s.mem.read (s.pc.toNat + 3) ++ s.mem.read (s.pc.toNat + 2) ++ s.mem.read (s.pc.toNat + 1)
    ++ s.mem.read s.pc.toNat
  have word : physFetch s.pc s.pc.toNat s0 = .ok { word := w, late := none } s0 := by
    rw [physFetch_uncached (s := s0) he fun hc => hc.1 hi, busReadState_ram _ _ _ _ hram, busBytes_ram _ _ _ _ hram]
    exact congrArg (fun w => Flow.ok (Fetched.mk w none) s0) (wordOfByteList_four _ _ _ _)
  have fetched : fetch s0 = .ok { word := w, late := none } s0 :=
    (fetch_flat (s := s0) ha hm (mpuFetch_off hoff)).trans (fetchAt_only word hn)
  have decoded : decode (bytesOfWord w) = .ok (i, []) := (decode_bytesOfWord_append _ _ _ _).trans hdec
  have runs : (canonical i w || s.cfg.nonCanonicalRuns) = true := by
    rcases hcan with hcan | hcan
    · have coded : encode i = w := by
        rw [← wordOfByteList_bytesOfWord (encode i), hcan]
        exact wordOfByteList_four _ _ _ _
      simp [canonical, coded]
    · simp [hcan]
  have run : runWord { word := w, late := none } s0 = runDecoded i { word := w, late := none } s0 := by
    rw [runWord, decoded]
  rw [step_quiet hq hset, fetched]
  refine run.trans ((runDecoded_exec (readSources_noEcc _ s0 he) rfl runs).trans ?_)
  rw [ite_self]

end Machine

end Sys2Proof

/-! ## The data cache without ECC (O19, O20, O21)

Without ECC a translation draws at most, an eviction changes memory and the old instruction words, and a line is in the cache with the
bytes that were written to it. What each operation does to the lines and to memory is said once; the instructions follow their flow. -/

namespace Sys2Proof.Machine

open Sys2Proof

variable {s s1 t u : State} {va : Word} {p i : Nat}

/-! ### Translation -/

/-- A lookup without ECC answers, where it answers, in the state where it began. -/
theorem mmuData_ok {kind : AccessKind} {r : Nat × Bool} (h : mmuData va kind s = .ok r s1) (he : s.cfg.ecc = false) : s1 = s := by
  unfold mmuData tlbLookup at h
  rw [tlbFatal_noEcc s _ he, tlbSettled_noEcc s _ he] at h
  split at h
  · injection h with _ h
    exact h.symm
  · rw [if_neg Bool.false_ne_true] at h
    split at h
    · cases h
    · next e _ =>
      dsimp only at h
      cases hr : tlbRefuses kind va e with
      | some x =>
        rw [hr] at h
        cases h
      | none =>
        rw [hr] at h
        injection h with _ h
        exact h.symm
    · cases h

/-- The check of the MPU leaves the state. -/
theorem mpuData_ok {kind : AccessKind} {mt : Option (BitVec 2)} (h : mpuData va p kind s = .ok mt s1) : s1 = s := by
  unfold mpuData at h
  split at h
  · split at h
    · split at h
      · cases h
      · cases h
      · split at h
        · cases h
        · injection h with _ h
          exact h.symm
        · cases h
    · cases h
  · injection h with _ h
    exact h.symm

/-- A translation without ECC draws at most (21_mmu_mpu.md R167, R176). -/
theorem translateData_draws {kind : AccessKind} {r : Nat × Bool} (h : translateData va kind s = .ok r s1)
    (he : s.cfg.ecc = false) : ∃ d, s1 = { s with draws := d } := by
  unfold translateData at h
  split at h
  · exact ⟨s.draws, mmuData_ok h he⟩
  · dsimp only at h
    cases hm : mpuData va (flatPhysical s.cfg va) kind s with
    | stop o =>
      rw [hm] at h
      cases h
    | ok mt s2 =>
      obtain rfl := mpuData_ok hm
      rw [hm] at h
      injection h with _ h
      subst h
      by_cases h3 : (mt == some 3#2) = true
      · exact ⟨s2.draws + 1, if_pos h3⟩
      · exact ⟨s2.draws, if_neg h3⟩

/-! ### What keeps the old instruction words -/

theorem KeepsPrefetched.refl (s : State) : KeepsPrefetched s s :=
  ⟨fun _ => ⟨rfl, rfl⟩, fun _ _ _ _ => ⟨⟨.inl, fun h => h.elim id fun h => absurd rfl h.1.1⟩,
    ⟨.inl, fun h => h.elim id fun h => absurd rfl h.1.1⟩⟩⟩

/-- Neither `pc` nor the data cache nor a draw has a part in it. -/
theorem KeepsPrefetched.elsewhere (h : KeepsPrefetched s t) (pc : Word) (dcache : List CacheLine) (draws : Nat) :
    KeepsPrefetched s { t with pc := pc, dcache := dcache, draws := draws } := h

theorem evict_keeps (s : State) (i : Nat) (he : s.cfg.ecc = false) : KeepsPrefetched s (s.evict i) := by
  unfold State.evict
  split
  · rw [s.writeBack_noEcc _ he]
    exact lineWrite_keeps s _ _
  · exact .refl s

theorem cleared_keeps (s : State) (i : Nat) (he : s.cfg.ecc = false) : KeepsPrefetched s (s.cleared i) := by
  unfold State.cleared
  split
  · exact evict_keeps s i he
  · exact .refl s

/-! ### Lines taken out of the cache -/

theorem dline_congr (h : t.dcache = s.dcache) (j : Nat) : t.dline j = s.dline j := by
  rw [State.dline, State.dline, h]

/-- A line past the end of the cache is nowhere written. -/
theorem dline_setDline_eq (s : State) (i j : Nat) (l : CacheLine) :
    (s.setDline i l).dline j = if j = i ∧ i < s.dcache.length then l else s.dline j := by
  by_cases hi : i < s.dcache.length
  · simp only [s.dline_setDline i j l hi, hi, and_true]
  · rw [if_neg fun h => hi h.2, State.dline, State.setDline, List.set_eq_of_length_le (by omega)]
    rfl

theorem dline_setDline_ne (s : State) (l : CacheLine) {i j : Nat} (h : j ≠ i) : (s.setDline i l).dline j = s.dline j :=
  (dline_setDline_eq s i j l).trans (if_neg fun hj => h hj.1)

/-- Past the end of the cache stands the line that no cache holds, which is invalid too. -/
theorem dline_setDline_valid (s : State) (i : Nat) {l : CacheLine} (h : l.valid = false) :
    ((s.setDline i l).dline i).valid = false := by
  rw [dline_setDline_eq]
  split
  · exact h
  · next hi =>
    rw [State.dline, List.getD_eq_default _ _ (by omega)]
    rfl

/-- An invalidation without ECC: the valid and the dirty bit cleared. -/
theorem dinvalidate_noEcc (s : State) (i : Nat) (he : s.cfg.ecc = false) :
    s.dinvalidate i = s.setDline i { s.dline i with valid := false, dirty := false, tagEcc := .none } := by
  unfold State.dinvalidate
  simp only [s.injectedBits_noEcc _ _ he]
  exact State.injectionDone_noEcc _ _ he

/-- What `flushd`, `flushda`, `initd` and `initda` do from the state of their translation: where `clears` holds the line at `i` leaves the
cache, by way of memory where `writesBack` holds (20_memory.md R126 to R129). -/
structure LineLeaves (s t : State) (i : Nat) (clears writesBack : Prop) : Prop where
  rest : t = { s with pc := s.pc + 4#32, mem := t.mem, dcache := t.dcache, prefetched := t.prefetched, readAhead := t.readAhead }
  kept : KeepsPrefetched s t
  stays : ¬ clears → t.mem = s.mem ∧ t.dcache = s.dcache
  cleared : clears → (t.dline i).valid = false ∧ ∀ j, j ≠ i → t.dline j = s.dline j
  written : clears ∧ writesBack → ∀ x, t.mem.read x = s.afterWriteBack (s.dline i) x
  lost : ¬ writesBack → t.mem = s.mem

namespace LineLeaves

variable {clears writesBack : Prop}

theorem untouched (h : ¬ clears) : LineLeaves s s.advance i clears writesBack where
  rest := rfl
  kept := (KeepsPrefetched.refl s).elsewhere _ _ _
  stays _ := ⟨rfl, rfl⟩
  cleared hc := absurd hc h
  written hc := absurd hc.1 h
  lost _ := rfl

theorem initialised (h : clears) (he : s.cfg.ecc = false) : LineLeaves s (s.dinvalidate i).advance i clears False := by
  rw [dinvalidate_noEcc s i he]
  exact {
    rest := rfl
    kept := (KeepsPrefetched.refl s).elsewhere _ _ _
    stays := fun hn => absurd h hn
    cleared := fun _ => ⟨dline_setDline_valid s i rfl, fun j hj => dline_setDline_ne s _ hj⟩
    written := fun hc => hc.2.elim
    lost := fun _ => rfl }

theorem flushed (h : clears) (he : s.cfg.ecc = false) (hm : s.mem.wf = true) (hl : s.LinesWhole) :
    LineLeaves s ((s.evict i).dinvalidate i).advance i clears True := by
  have only := s.evict_only i he
  have lines : (s.evict i).dcache = s.dcache := by rw [only]
  rw [dinvalidate_noEcc (s.evict i) i (by rw [only]; exact he)]
  exact {
    rest := by rw [only]; rfl
    kept := (evict_keeps s i he).elsewhere _ _ _
    stays := fun hn => absurd h hn
    cleared := fun _ => ⟨dline_setDline_valid _ i rfl, fun j hj => (dline_setDline_ne _ _ hj).trans (dline_congr lines j)⟩
    written := fun _ => s.read_evict i he hm (s.dline_length hl i)
    lost := fun hn => absurd trivial hn }

end LineLeaves

/-- `flushda` and `initda` find a line where the cache holds the address and no tightly-coupled memory does (20_memory.md R103, R127). -/
theorem dcacheCompare_noEcc (va : Word) (p : Nat) (he : s.cfg.ecc = false) :
    ∃ hit, dcacheCompare va p s = .ok hit s ∧ (hit = true ↔ s.cfg.dcacheSize ≠ 0 ∧ s.Hits va p ∧ inTcm s.cfg.dtcms p = false
      ∧ inTcm s.cfg.itcms p = false) := by
  simp only [dcacheCompare, State.Hits, State.dindex, State.eccRead_noEcc s _ he, s.lineTag_noEcc _ he, s.dtagRead_noEcc _ _ he]
  split
  · next h =>
    refine ⟨false, rfl, ⟨fun hf => absurd hf Bool.false_ne_true, fun ⟨hsize, ⟨hv, _⟩, hd, hi⟩ => ?_⟩⟩
    simp [hsize, hv, hd, hi, Config.tightlyCoupled] at h
  · next h =>
    simp only [Config.tightlyCoupled, Bool.or_eq_true, decide_eq_true_eq, Bool.not_eq_true', not_or, Bool.not_eq_false,
      Bool.not_eq_true] at h
    obtain ⟨⟨hsize, hv⟩, hi, hd⟩ := h
    exact ⟨_, rfl, by simp [hsize, hv, hi, hd]⟩

theorem cacheOpTranslate_ok {kind : AccessKind} {r : Nat × Bool} (h : translateData va kind s = .ok r s1) (hu : s.UserMay va) :
    cacheOpTranslate va kind s = .ok r.1 s1 := by
  unfold cacheOpTranslate userAddressCheck
  rw [hu]
  simp only [Flow.andThen, Bool.false_eq_true, if_false, h]

/-- `DCacheFlushLine` without ECC (20_memory.md R126). -/
theorem dcacheFlushLine_noEcc (va : Word) (he : s.cfg.ecc = false) :
    s.dcacheFlushLine va = if s.cfg.dcacheSize = 0 then s else (s.evict (s.dindex va)).dinvalidate (s.dindex va) := by
  simp only [State.dcacheFlushLine, s.dtagRead_noEcc _ _ he, ite_self]
  rfl

theorem dcacheFlushLine_leaves (va : Word) (he : s.cfg.ecc = false) (hm : s.mem.wf = true) (hl : s.LinesWhole) :
    LineLeaves s (s.dcacheFlushLine va).advance (s.dindex va) (s.cfg.dcacheSize ≠ 0) True := by
  rw [dcacheFlushLine_noEcc va he]
  split
  · next h => exact .untouched (not_not.2 h)
  · next h => exact .flushed h he hm hl

theorem dcacheInitLine_leaves (va : Word) (he : s.cfg.ecc = false) :
    LineLeaves s (s.dcacheInitLine va).advance (s.dindex va) (s.cfg.dcacheSize ≠ 0) False := by
  unfold State.dcacheInitLine
  split
  · next h => exact .untouched (not_not.2 h)
  · next h => exact .initialised h he

theorem dcacheFlushAddr_leaves (va : Word) (p : Nat) (he : s.cfg.ecc = false) (hm : s.mem.wf = true) (hl : s.LinesWhole) :
    ∃ u, dcacheFlushAddr va p s = .ok () u ∧ LineLeaves s u.advance (s.dindex va)
      (s.cfg.dcacheSize ≠ 0 ∧ s.Hits va p ∧ inTcm s.cfg.dtcms p = false ∧ inTcm s.cfg.itcms p = false) True := by
  obtain ⟨hit, hc, found⟩ := dcacheCompare_noEcc va p he
  unfold dcacheFlushAddr
  rw [hc]
  refine ⟨_, rfl, ?_⟩
  split
  · next h => exact .flushed (found.1 h) he hm hl
  · next h => exact .untouched (mt found.2 h)

theorem dcacheInitAddr_leaves (va : Word) (p : Nat) (he : s.cfg.ecc = false) :
    ∃ u, dcacheInitAddr va p s = .ok () u ∧ LineLeaves s u.advance (s.dindex va)
      (s.cfg.dcacheSize ≠ 0 ∧ s.Hits va p ∧ inTcm s.cfg.dtcms p = false ∧ inTcm s.cfg.itcms p = false) False := by
  obtain ⟨hit, hc, found⟩ := dcacheCompare_noEcc va p he
  unfold dcacheInitAddr
  rw [hc]
  refine ⟨_, rfl, ?_⟩
  split
  · next h => exact .initialised (found.1 h) he
  · next h => exact .untouched (mt found.2 h)

/-- The words of the four data cache instructions (46_other_control.md R397 to R403). -/
theorem coded_dcacheInstructions (a : RegIdx) (imm16 : BitVec 16) :
    Coded (wordI a 0#5 imm16 0x3B#6) (.flushd a imm16) ∧ Coded (wordI a 0#5 imm16 0x1B#6) (.flushda a imm16)
    ∧ Coded (wordI a 0#5 imm16 0x33#6) (.initd a imm16) ∧ Coded (wordI a 0#5 imm16 0x13#6) (.initda a imm16) := by
  simp only [Coded, wordI_eq, decodeWord, encode, opOf_encI, aOf_encI, imm16Of_encI, and_self]

/-- Settles O21: each instruction ends in the state that its line leaves. -/
theorem dataCacheInstructions : Obligations.DataCacheInstructions := by
  intro a imm16
  obtain ⟨c1, c2, c3, c4⟩ := coded_dcacheInstructions a imm16
  refine ⟨c1, c2, c3, c4, fun s hm hl he => ?_⟩
  intro va i does
  have of_leaves {ins : Instr} {d : Nat} {t : State} {clears writesBack : Prop} (hx : exec ins s = .next t)
      (h : LineLeaves { s with draws := d } t i clears writesBack) : does ins { s with draws := d } clears writesBack :=
    ⟨t, hx, h.rest, h.kept, h.stays, h.cleared, h.written, h.lost⟩
  refine ⟨of_leaves rfl (dcacheFlushLine_leaves va he hm hl), fun hu => ?_, fun p c s1 hu ht => ?_, fun p c s1 hi hu ht => ?_,
    fun hi => ?_⟩
  · refine of_leaves ?_ (dcacheInitLine_leaves va he)
    obtain ⟨hU, -⟩ | ⟨-, hx⟩ := supervisorOnly_cases s (.next (s.dcacheInitLine va).advance)
    · rw [hu] at hU
      cases hU
    · exact hx
  · obtain ⟨d, rfl⟩ := translateData_draws ht he
    obtain ⟨u, hf, h⟩ := dcacheFlushAddr_leaves (s := { s with draws := d }) va p he hm hl
    refine of_leaves ?_ h
    show execFlushda a imm16 s = _
    rw [execFlushda, cacheOpTranslate_ok ht hu, Flow.bind, hf]
    rfl
  · obtain ⟨d, rfl⟩ := translateData_draws ht he
    obtain ⟨u, hf, h⟩ := dcacheInitAddr_leaves (s := { s with draws := d }) va p he
    refine of_leaves ?_ h
    show execInitda a imm16 s = _
    rw [execInitda, cacheOpTranslate_ok ht hu, Flow.bind, hf, hi]
    rfl
  · refine ⟨?_, rfl⟩
    show execInitda a imm16 s = _
    rw [execInitda, hi]
    rfl

end Sys2Proof.Machine

/-! ## Loads through the data cache (O19)

The line of the access is present when the bytes are taken, whether it was or a miss filled it: `LinePresent` says what it holds and what
became of the line that it displaced. -/

namespace Sys2Proof

theorem wordOfByteList_one (b0 : Byte) : wordOfByteList [b0] = b0.setWidth 32 := by simp [wordOfByteList, zext]

theorem wordOfByteList_two (b0 b1 : Byte) : wordOfByteList [b0, b1] = (b1 ++ b0).setWidth 32 := by
  apply BitVec.eq_of_getLsbD_eq
  intro i hi
  simp only [wordOfByteList, zext, BitVec.getLsbD_or, BitVec.getLsbD_shiftLeft, BitVec.getLsbD_setWidth,
    BitVec.getLsbD_append]
  interval_cases i <;> simp

namespace Machine

theorem field_setWidth {n : Nat} (v : BitVec n) (h : n ≤ 32) : field (v.setWidth 32) 0 n = v := by
  have hlt : v.toNat < 2 ^ 32 := v.isLt.trans_le (Nat.pow_le_pow_right (by decide) h)
  apply BitVec.eq_of_toNat_eq
  rw [field, BitVec.extractLsb'_toNat, Nat.shiftRight_zero, BitVec.toNat_setWidth, Nat.mod_eq_of_lt hlt, Nat.mod_eq_of_lt v.isLt]

theorem extendByte_setWidth (b0 : Byte) : extendByte (b0.setWidth 32) = b0.signExtend 32 := by
  rw [extendByte, field_setWidth b0 (by decide), sext]

theorem extendHalf_setWidth (h : BitVec 16) : extendHalf (h.setWidth 32) = h.signExtend 32 := by
  rw [extendHalf, field_setWidth h (by decide), sext]

variable {s s1 t u : State} {va : Word} {p i n : Nat} {b : RegIdx} {v : Word}

/-! ### A line made present -/

theorem cachedByte_hit (hh : s.Hits va p) (o : Nat) :
    s.cachedByte va (p / 32 * 32) o = (s.dline (s.dindex va)).data.getD o 0#8 := by
  have hline : p / 32 * 32 / 32 = p / 32 ∧ p / 32 * 32 % 32 = 0 := by omega
  rw [State.cachedByte, hline.1, hline.2, Nat.zero_add]
  exact if_pos hh

theorem cachedByte_miss (hn : ¬ s.Hits va p) (o : Nat) : s.cachedByte va (p / 32 * 32) o =
    if s.cfg.dlineRam (p / 32 * 32 + o) then s.mem.read (p / 32 * 32 + o) else Config.freeByte s.draws o := by
  have hline : p / 32 * 32 / 32 = p / 32 ∧ p / 32 * 32 % 32 = 0 := by omega
  rw [State.cachedByte, hline.1, hline.2, Nat.zero_add]
  exact if_neg hn

/-- A byte that a cached access finds, counted from the start of its line. -/
theorem cachedByte_line (s : State) (va : Word) (p k : Nat) :
    s.cachedByte va p k = s.cachedByte va (p / 32 * 32) (p % 32 + k) := by
  have hline : p / 32 * 32 / 32 = p / 32 ∧ p / 32 * 32 % 32 = 0 ∧ p / 32 * 32 + (p % 32 + k) = p + k := by omega
  rw [State.cachedByte, State.cachedByte, hline.1, hline.2.1, hline.2.2, Nat.zero_add]

/-- `s` with what a cached access may change taken from `t`. -/
abbrev State.withDataSide (s t : State) : State :=
  { s with mem := t.mem, dcache := t.dcache, prefetched := t.prefetched, readAhead := t.readAhead, draws := t.draws }

/-- From `s` to `t` the line of the physical address `p` comes to stand at the index of `va`: as it was on a hit, and on a miss filled from
memory after the write-back of a valid and dirty line there (20_memory.md R125). -/
structure LinePresent (s t : State) (va : Word) (p : Nat) : Prop where
  kept : KeepsPrefetched s t
  hit : s.Hits va p → t.mem = s.mem ∧ t.dcache = s.dcache ∧ t.prefetched = s.prefetched ∧ t.readAhead = s.readAhead
  memory : ¬ s.Hits va p → ∀ x, t.mem.read x =
    if (s.dline (s.dindex va)).valid then s.afterWriteBack (s.dline (s.dindex va)) x else s.mem.read x
  valid : (t.dline (s.dindex va)).valid = true
  line : (t.dline (s.dindex va)).line = p / 32
  fresh : ¬ s.Hits va p → (t.dline (s.dindex va)).dirty = false ∧ (t.dline (s.dindex va)).stored = false
  whole : (t.dline (s.dindex va)).data.length = 32
  bytes : ∀ o, o < 32 → (t.dline (s.dindex va)).data.getD o 0#8 = s.cachedByte va (p / 32 * 32) o
  others : ∀ j, j ≠ s.dindex va → t.dline j = s.dline j

/-- It is about the data side alone. -/
theorem LinePresent.elsewhere (h : LinePresent s t va p) (pc : Word) (gpr : Vector Word 32) (shadow : List (Vector Word 32))
    (draws : Nat) :
    LinePresent s { t with pc := pc, gpr := gpr, shadow := shadow, draws := draws } va p := { h with }

theorem LinePresent.of_hit (hh : s.Hits va p) (hl : s.LinesWhole) : LinePresent s s va p where
  kept := .refl s
  hit _ := ⟨rfl, rfl, rfl, rfl⟩
  memory hn := absurd hh hn
  valid := hh.1
  line := hh.2
  fresh hn := absurd hh hn
  whole := s.dline_length hl _
  bytes o _ := (cachedByte_hit hh o).symm
  others _ _ := rfl

/-- The eviction that makes room for a line, without ECC. -/
theorem cleared_only (s : State) (i : Nat) (he : s.cfg.ecc = false) : s.cleared i = { s with
    mem := (s.cleared i).mem, prefetched := (s.cleared i).prefetched, readAhead := (s.cleared i).readAhead } := by
  unfold State.cleared
  split
  · exact s.evict_only i he
  · rfl

theorem cleared_cfg (s : State) (i : Nat) (he : s.cfg.ecc = false) : (s.cleared i).cfg = s.cfg := by
  rw [cleared_only s i he]

theorem dfill_only (s : State) (i p : Nat) (he : s.cfg.ecc = false) :
    s.dfill i p = { s with dcache := (s.dfill i p).dcache, draws := (s.dfill i p).draws } := by
  rw [s.dfill_noEcc i p he, busReadState_only]
  rfl

/-- The lines after a fill. -/
theorem dline_dfill (p j : Nat) (he : s.cfg.ecc = false) (hi : i < s.dcache.length) :
    (s.dfill i p).dline j = if j = i then filledLine s.cfg.dtagUnit (p / 32) (s.dfillBytes p) [] [] else s.dline j := by
  rw [s.dfill_noEcc i p he, busReadState_only]
  exact State.dline_setDline _ _ _ _ hi

/-- The state after a miss: the write-back, the fill, and nothing else. -/
theorem miss_only (s : State) (i p : Nat) (he : s.cfg.ecc = false) :
    (s.cleared i).dfill i p = { s with
      mem := (s.cleared i).mem, prefetched := (s.cleared i).prefetched, readAhead := (s.cleared i).readAhead,
      dcache := ((s.cleared i).dfill i p).dcache, draws := ((s.cleared i).dfill i p).draws } := by
  refine (dfill_only _ i p (cleared_cfg s i he ▸ he)).trans ?_
  generalize ((s.cleared i).dfill i p).dcache = lines
  generalize ((s.cleared i).dfill i p).draws = d
  rw [cleared_only s i he]

theorem dline_miss (p j : Nat) (he : s.cfg.ecc = false) (hi : i < s.dcache.length) :
    ((s.cleared i).dfill i p).dline j =
      if j = i then filledLine (s.cleared i).cfg.dtagUnit (p / 32) ((s.cleared i).dfillBytes p) [] [] else s.dline j := by
  have lines : (s.cleared i).dcache = s.dcache := by rw [cleared_only s i he]
  rw [dline_dfill p j (cleared_cfg s i he ▸ he) (lines ▸ hi), dline_congr lines]

section

variable (he : s.cfg.ecc = false) (hm : s.mem.wf = true) (hl : s.LinesWhole) (hi : s.dindex va < s.dcache.length)

include he hm hl hi

theorem LinePresent.of_miss (hn : ¬ s.Hits va p) :
    LinePresent s ((s.cleared (s.dindex va)).dfill (s.dindex va) p) va p := by
  have only := dfill_only (s.cleared (s.dindex va)) (s.dindex va) p (cleared_cfg s _ he ▸ he)
  have lines := fun j => dline_miss p j he hi
  have here := (lines (s.dindex va)).trans (if_pos rfl)
  exact {
    kept := by rw [only]; exact (cleared_keeps s _ he).elsewhere _ _ _
    hit := fun hh => absurd hh hn
    memory := fun _ x => by
      rw [only]
      exact s.read_cleared _ he hm (s.dline_length hl _) x
    valid := by rw [here]; rfl
    line := by rw [here]; rfl
    fresh := fun _ => by rw [here]; exact ⟨rfl, rfl⟩
    whole := by rw [here, filledLine_data_length, State.dfillBytes, busBytes_length]
    bytes := fun o ho => by
      rw [here, cachedByte_miss hn]
      exact s.fill_byte _ p o he ho hm (s.dline_length hl _) fun hv hline => hn ⟨hv, hline⟩
    others := fun j hj => (lines j).trans (if_neg hj) }

/-- The line of an access is made present, and what a miss read from memory is what it holds then. -/
theorem dpresent_presents : ∃ filled u, dpresent va (s.dindex va) p s = .ok filled u ∧ LinePresent s u va p
    ∧ u = s.withDataSide u
    ∧ (s.Hits va p → u.draws = s.draws) ∧ filled.getD (u.dline (s.dindex va)).data = (u.dline (s.dindex va)).data := by
  rw [dpresent_noEcc va _ p s he]
  by_cases hh : s.Hits va p
  · exact ⟨none, s, if_pos hh, .of_hit hh hl, rfl, fun _ => rfl, rfl⟩
  · refine ⟨_, _, if_neg hh, .of_miss he hm hl hi hh, ?_, fun h => absurd h hh, ?_⟩
    · rw [miss_only s _ p he]
    · rw [dline_miss p _ he hi, if_pos rfl]
      rfl

/-- A load through the cache takes its bytes from the line made present. -/
theorem dcacheRead_presents (hf : p % 32 + n ≤ 32) : ∃ u, dcacheRead va p n s = .ok ((List.range n).map (s.cachedByte va p)) u
    ∧ LinePresent s u va p
    ∧ u = s.withDataSide u
    ∧ (s.Hits va p → u.draws = s.draws) := by
  obtain ⟨filled, u, hd, present, only, draws, same⟩ := dpresent_presents (p := p) he hm hl hi
  have hu : u.cfg.ecc = false := by rw [only]; exact he
  have bytes : ((u.dline (s.dindex va)).data.drop (p % 32)).take n = (List.range n).map (s.cachedByte va p) := by
    rw [take_drop_eq_map (by rw [present.whole]; exact hf)]
    refine List.map_congr_left fun k hk => ?_
    have hk : k < n := List.mem_range.1 hk
    rw [present.bytes _ (by omega), ← cachedByte_line]
  refine ⟨u, ?_, present, only, draws⟩
  show (dpresent va (s.dindex va) p s).andThen _ = _
  rw [hd, ← bytes]
  cases filled with
  | some data =>
    rw [← same]
    rfl
  | none =>
    simp only [Flow.andThen, State.ddataRead, State.eccOn_noEcc u hu, State.eccRead_noEcc u _ hu, Bool.and_false,
      Bool.false_eq_true, if_false]
    rfl

end

/-! ### Loads through the cache -/

/-- A cached read: the bytes it finds, extended, or any value where the platform maps nothing (20_memory.md R110, U4). -/
theorem State.Caches.memRead_eq (h : s.Caches va .load p s1) (hm : s.mem.wf = true) (n : Nat) (extend : Word → Word) (hn : n ∣ 32)
    (ha : n ∣ va.toNat) : ∃ u, LinePresent s1 u va p
      ∧ u = s1.withDataSide u
      ∧ (s1.Hits va p → u.draws = s1.draws)
      ∧ memRead false va n extend s =
        if allMapped s.cfg p n then .ok (extend (wordOfByteList ((List.range n).map (s1.cachedByte va p)))) u
        else .ok (Config.freeWord u.draws) u.drawn := by
  have hi := h.index_lt
  obtain ⟨he, -, -, hl, hu, c, ht, hd, hc⟩ := h
  have hf := line_offset_fits hn (translateData_low ht) ha
  obtain ⟨d, hs1⟩ := translateData_draws ht he
  obtain ⟨u, hr, present, only, draws⟩ :=
    dcacheRead_presents (s := s1) (va := va) (p := p) (n := n) (hs1 ▸ he) (hs1 ▸ hm) (hs1 ▸ hl) (hs1 ▸ hi) hf
  refine ⟨u, present, only, draws, ?_⟩
  have read : physRead va false c p n s1 = .ok ((List.range n).map (s1.cachedByte va p)) u := by
    rw [← hr, physRead, show s1.cfg = s.cfg by rw [hs1], hd]
    exact if_pos hc
  have hal : aligned va n = true := (aligned_iff va n).2 (Nat.mod_eq_zero_of_dvd ha)
  unfold memRead userAddressCheck
  rw [hu]
  simp only [Flow.andThen, hal, ht, read, Bool.false_eq_true, if_false, if_true]

/-- A load without ECC changes `pc` and the registers (40_data_transfer.md R241). -/
theorem LoadResult.only {pc' : Word} (h : LoadResult s t b v pc') (he : s.cfg.ecc = false) :
    t = { s with pc := t.pc, gpr := t.gpr, shadow := t.shadow } := by
  unfold LoadResult at h
  split at h
  · rw [h]
  · obtain ⟨hrf, hinj, hdraws⟩ := h.noEcc he
    refine h.rest.trans ?_
    rw [hrf, hinj, hdraws]

/-- The end of a cached load. -/
theorem LinePresent.finishLoad (present : LinePresent s u va p) (he : s.cfg.ecc = false) (hr : s.Ready)
    (only : u = s.withDataSide u)
    (b : RegIdx) (v : Word) : ∃ t, u.finishLoad b v = .next t ∧ LinePresent s t va p ∧ t.draws = u.draws
      ∧ LoadResult (s.withDataSide t)
        t b v (s.pc + 4#32) := by
  have ready : u.Ready := by rw [only]; exact hr
  obtain ⟨t, ht, result⟩ := u.finishLoad_result b v ready
  have hpc : u.pc = s.pc := by rw [only]
  have same := result.only (by rw [only]; exact he)
  refine ⟨t, ht, ?_, ?_, ?_⟩
  · rw [same]
    exact present.elsewhere _ _ _ _
  · rw [same]
  · have side : s.withDataSide t = u := by
      rw [same]
      exact only.symm
    rw [side, ← hpc]
    exact result

/-- What a load of `n` bytes through the cache does from the state of its translation (20_memory.md R110). -/
structure CachedLoad (s t : State) (va : Word) (p n : Nat) (b : RegIdx) (v : Word) : Prop where
  present : LinePresent s t va p
  result : if ∀ k, k < n → s.cfg.dataMapped (p + k) = true then
      LoadResult (s.withDataSide t) t b v (s.pc + 4#32) ∧ (s.Hits va p → t.draws = s.draws)
    else ∃ d, LoadResult (s.withDataSide t) t b (Config.freeWord d) (s.pc + 4#32)

theorem allMapped_iff (c : Config) (a n : Nat) : allMapped c a n = true ↔ ∀ k, k < n → c.dataMapped (a + k) = true := by
  simp [allMapped]

theorem opLoad_cached {a : RegIdx} {imm16 : BitVec 16} (hr : s.Ready) (hm : s.mem.wf = true)
    (h : s.Caches (s.effAddr a imm16) .load p s1) (b : RegIdx) (extend : Word → Word) (hn : n ∣ 32)
    (ha : n ∣ (s.effAddr a imm16).toNat) : ∃ t, opLoad false n extend b a imm16 s = .next t
      ∧ CachedLoad s1 t (s.effAddr a imm16) p n b
        (extend (wordOfByteList ((List.range n).map (s1.cachedByte (s.effAddr a imm16) p)))) := by
  obtain ⟨u, present, only, draws, read⟩ := h.memRead_eq hm n extend hn ha
  obtain ⟨he, -, -, -, -, c, ht, -⟩ := h
  obtain ⟨d, hs1⟩ := translateData_draws ht he
  have hcfg : s1.cfg = s.cfg := by rw [hs1]
  have ready : s1.Ready := by rw [hs1]; exact hr
  unfold opLoad
  rw [read]
  split
  · next hmap =>
    obtain ⟨t, ht, there, hdraws, result⟩ := present.finishLoad (hcfg ▸ he) ready only b
      (extend (wordOfByteList ((List.range n).map (s1.cachedByte (s.effAddr a imm16) p))))
    refine ⟨t, ht, there, ?_⟩
    rw [if_pos ((allMapped_iff _ _ _).1 (hcfg ▸ hmap))]
    exact ⟨result, fun hh => hdraws.trans (draws hh)⟩
  · next hmap =>
    have drawn : LinePresent s1 u.drawn (s.effAddr a imm16) p := present.elsewhere u.pc u.gpr u.shadow (u.draws + 1)
    obtain ⟨t, ht, there, -, result⟩ := drawn.finishLoad (hcfg ▸ he) ready (by rw [only]; rfl) b (Config.freeWord u.draws)
    refine ⟨t, ht, there, ?_⟩
    rw [if_neg (mt (allMapped_iff _ _ _).2 (hcfg ▸ hmap))]
    exact ⟨_, result⟩

/-- Settles O19: the word is that of the line made present, by the number of bytes. -/
theorem cachedLoadResults : Obligations.CachedLoadResults := by
  intro s s1 a b imm16 p hr hm h va i cached loads byte
  obtain ⟨d, rfl⟩ : ∃ d, s1 = { s with draws := d } := by
    obtain ⟨he, -, -, -, -, c, ht, -⟩ := h
    exact translateData_draws ht he
  have of_load {ins : Instr} {n : Nat} {v w : Word} (hv : v = w)
      (hx : ∃ t, exec ins s = .next t ∧ CachedLoad { s with draws := d } t va p n b v) : loads ins n w := by
    obtain ⟨t, hx, present, result⟩ := hx
    subst hv
    refine ⟨t, hx, result, present.kept, fun hh => ⟨(present.hit hh).1, (present.hit hh).2.1⟩, fun hn => ?_⟩
    exact ⟨present.memory hn, present.valid, (present.fresh hn).1, (present.fresh hn).2, present.line, present.bytes,
      present.others⟩
  refine ⟨of_load ?_ (opLoad_cached hr hm h b extendByte (by decide) (one_dvd _)),
    of_load ?_ (opLoad_cached hr hm h b extendZero (by decide) (one_dvd _)),
    fun h2 => ⟨of_load ?_ (opLoad_cached hr hm h b extendHalf (by decide) (Nat.dvd_of_mod_eq_zero h2)),
      of_load ?_ (opLoad_cached hr hm h b extendZero (by decide) (Nat.dvd_of_mod_eq_zero h2))⟩,
    fun h4 => of_load ?_ (opLoad_cached hr hm h b extendZero (by decide) (Nat.dvd_of_mod_eq_zero h4))⟩
  · exact (congrArg extendByte (wordOfByteList_one _)).trans (extendByte_setWidth _)
  · exact wordOfByteList_one _
  · exact (congrArg extendHalf (wordOfByteList_two _ _)).trans (extendHalf_setWidth _)
  · exact wordOfByteList_two _ _
  · exact wordOfByteList_four _ _ _ _

end Machine

end Sys2Proof

/-! ## Stores through the data cache (O20)

A store makes the line of the access present, as a load does, and then puts its bytes into it: `CachedStore`. A load of the same word that
follows hits that line. -/

namespace Sys2Proof

theorem storeBytes_length (v : Word) {n : Nat} (hn : n ≤ 4) : (Machine.storeBytes v n).length = n := by
  simp [Machine.storeBytes, bytesOfWord, hn]

theorem storeBytes_getD (v : Word) {n k : Nat} (hn : n ≤ 4) (hk : k < n) :
    (Machine.storeBytes v n).getD k 0#8 = v.extractLsb' (8 * k) 8 := by
  rw [Machine.storeBytes, List.getD_eq_getElem?_getD, List.getElem?_take_of_lt hk]
  obtain rfl | rfl | rfl | rfl : k = 0 ∨ k = 1 ∨ k = 2 ∨ k = 3 := by omega
  all_goals rfl

theorem map_extractLsb'_eq_bytesOfWord (v : Word) : (List.range 4).map (fun k => v.extractLsb' (8 * k) 8) = bytesOfWord v := rfl

namespace Machine

variable {s s1 t u : State} {va : Word} {p i n : Nat} {b : RegIdx} {v : Word}

/-! ### A patched line -/

theorem patchBytes_getD_inside {data bs : List Byte} {off k : Nat} (h : off + bs.length ≤ data.length) (hk : k < bs.length) :
    (patchBytes data off bs).getD (off + k) 0#8 = bs.getD k 0#8 := by
  have htake : (data.take off).length = off := by rw [List.length_take]; omega
  rw [patchBytes, List.append_assoc, List.getD_append_right _ _ _ _ (by omega), htake, Nat.add_sub_cancel_left,
    List.getD_append _ _ _ _ hk]

theorem patchBytes_getD_outside {data bs : List Byte} {off o : Nat} (h : off + bs.length ≤ data.length)
    (ho : o < off ∨ off + bs.length ≤ o) : (patchBytes data off bs).getD o 0#8 = data.getD o 0#8 := by
  have htake : (data.take off).length = off := by rw [List.length_take]; omega
  rw [patchBytes, List.append_assoc]
  rcases ho with ho | ho
  · rw [List.getD_append _ _ _ _ (by omega), List.getD_eq_getElem?_getD, List.getElem?_take_of_lt ho,
      ← List.getD_eq_getElem?_getD]
  · rw [List.getD_append_right _ _ _ _ (by omega), htake, List.getD_append_right _ _ _ _ (by omega),
      List.getD_eq_getElem?_getD, List.getElem?_drop, ← List.getD_eq_getElem?_getD]
    congr 1
    omega

/-- A write of a present line without ECC: its bytes patched, its dirty bit set. -/
theorem dstore_noEcc (s : State) (i a : Nat) (bs : List Byte) (he : s.cfg.ecc = false) (hline : (s.dline i).line = a / 32) :
    ∃ l : CacheLine, s.dstore i a bs = s.setDline i l ∧ l.valid = (s.dline i).valid ∧ (l.dirty = true ∧ l.stored = true)
      ∧ l.line = a / 32 ∧ l.data = patchBytes (s.dline i).data (a % 32) bs := by
  unfold State.dstore
  simp only [s.injectedBits_noEcc _ _ he, s.injectionDone_noEcc _ he, List.map_nil, List.foldl_nil, EccMark.injectionFlips, if_true]
  split
  · exact ⟨_, rfl, rfl, ⟨rfl, rfl⟩, hline, rfl⟩
  · exact ⟨_, rfl, rfl, ⟨rfl, rfl⟩, rfl, rfl⟩

/-- What a store of the bytes `bs` through the cache does from the state of its translation (20_memory.md R111, R125). -/
structure CachedStore (s t : State) (va : Word) (p : Nat) (bs : List Byte) : Prop where
  only : t = s.withDataSide t
  kept : KeepsPrefetched s t
  hit : s.Hits va p → t.mem = s.mem ∧ t.draws = s.draws
  memory : ¬ s.Hits va p → ∀ x, t.mem.read x =
    if (s.dline (s.dindex va)).valid then s.afterWriteBack (s.dline (s.dindex va)) x else s.mem.read x
  valid : (t.dline (s.dindex va)).valid = true
  line : (t.dline (s.dindex va)).line = p / 32
  dirty : (t.dline (s.dindex va)).dirty = true ∧ (t.dline (s.dindex va)).stored = true
  written : ∀ k, k < bs.length → (t.dline (s.dindex va)).data.getD (p % 32 + k) 0#8 = bs.getD k 0#8
  bytes : ∀ o, o < 32 → o < p % 32 ∨ p % 32 + bs.length ≤ o →
    (t.dline (s.dindex va)).data.getD o 0#8 = s.cachedByte va (p / 32 * 32) o
  others : ∀ j, j ≠ s.dindex va → t.dline j = s.dline j

theorem dcacheWrite_stores {bs : List Byte} (he : s.cfg.ecc = false) (hm : s.mem.wf = true) (hl : s.LinesWhole)
    (hi : s.dindex va < s.dcache.length) (hf : p % 32 + bs.length ≤ 32) :
    ∃ t, dcacheWrite va p bs s = .ok () t ∧ CachedStore s t va p bs := by
  obtain ⟨filled, u, hd, present, only, draws, -⟩ := dpresent_presents (p := p) he hm hl hi
  have hlen : u.dcache.length = s.dcache.length := by
    have hw := dpresent_within va (s.dindex va) p s
    rw [hd] at hw
    exact hw.dcacheLength
  obtain ⟨l, hs, valid, dirty, line, data⟩ := dstore_noEcc u (s.dindex va) p bs (by rw [only]; exact he) present.line
  have lines : ∀ j, (u.setDline (s.dindex va) l).dline j = if j = s.dindex va then l else u.dline j := fun j =>
    u.dline_setDline _ j l (hlen ▸ hi)
  have here := (lines (s.dindex va)).trans (if_pos rfl)
  have hfit : p % 32 + bs.length ≤ (u.dline (s.dindex va)).data.length := by rw [present.whole]; exact hf
  refine ⟨u.setDline (s.dindex va) l, ?_, {
    only := by rw [only]; rfl
    kept := present.kept.elsewhere _ _ _
    hit := fun hh => ⟨(present.hit hh).1, draws hh⟩
    memory := present.memory
    valid := by rw [here]; exact valid.trans present.valid
    line := by rw [here]; exact line
    dirty := by rw [here]; exact dirty
    written := fun k hk => by rw [here, data]; exact patchBytes_getD_inside hfit hk
    bytes := fun o ho hout => by
      rw [here, data]
      exact (patchBytes_getD_outside hfit hout).trans (present.bytes o ho)
    others := fun j hj => (lines j).trans ((if_neg hj).trans (present.others j hj)) }⟩
  show (dpresent va (s.dindex va) p s).andThen _ = _
  rw [hd, ← hs]
  rfl

/-- A cached store of `n` bytes (20_memory.md R111). -/
theorem opStore_cached {a : RegIdx} {imm16 : BitVec 16} (hm : s.mem.wf = true) (h : s.Caches (s.effAddr a imm16) .store p s1)
    (b : RegIdx) (hn : n ∈ [1, 2, 4]) (ha : n ∣ (s.effAddr a imm16).toNat) :
    ∃ u, opStore false n b a imm16 s = .next u.advance ∧ CachedStore s1 u (s.effAddr a imm16) p (storeBytes (s.reg b) n)
      ∧ Inner s u ∧ u.LinesWhole := by
  have hi := h.index_lt
  obtain ⟨he, -, -, hl, hu, c, ht, hd, hc⟩ := h
  have h4 : n ≤ 4 ∧ n ∣ 32 := by
    simp only [List.mem_cons, List.not_mem_nil, or_false] at hn
    obtain rfl | rfl | rfl := hn <;> decide
  obtain ⟨d, hs1⟩ := translateData_draws ht he
  have hf : p % 32 + (storeBytes (s.reg b) n).length ≤ 32 := by
    rw [storeBytes_length _ h4.1]
    exact line_offset_fits h4.2 (translateData_low ht) ha
  obtain ⟨u, hw, stored⟩ := dcacheWrite_stores (s := s1) (va := s.effAddr a imm16) (hs1 ▸ he) (hs1 ▸ hm) (hs1 ▸ hl) (hs1 ▸ hi) hf
  have hal : aligned (s.effAddr a imm16) n = true := (aligned_iff _ n).2 (Nat.mod_eq_zero_of_dvd ha)
  have write : memWrite false (s.effAddr a imm16) n (s.reg b) s = .ok () u := by
    unfold memWrite userAddressCheck alignedWrite physWrite
    rw [hu]
    simp only [Flow.andThen, hal, ht, Bool.false_eq_true, if_false, if_true, show s1.cfg = s.cfg by rw [hs1], hd, hc, hw]
  have within := memWrite_within false (s.effAddr a imm16) n (s.reg b) s
  have whole := memWrite_linesWhole false (s.effAddr a imm16) hn (s.reg b) hl
  rw [write] at within whole
  exact ⟨u, by rw [opStore, write]; rfl, stored, within, whole⟩

/-! ### The load that follows -/

/-- Without an MMU and with the MPU absent or off the address decides (21_mmu_mpu.md R150). -/
theorem translateData_flat (kind : AccessKind) (hmmu : s.cfg.mmu = false) (hmpu : s.mpuOn = false) :
    translateData va kind s = .ok (flatPhysical s.cfg va, flatCacheable s va (flatPhysical s.cfg va) none) s := by
  simp [translateData, mpuData, hmmu, hmpu, Flow.andThen]

/-- After a cached store the same access goes to the cache, and hits. -/
theorem State.Caches.load_after_store (h : s.Caches va .store p s) (hmmu : s.cfg.mmu = false)
    (hmpu : s.mpuOn = false) (only : u = s.withDataSide u) (hlen : u.dcache.length = s.dcache.length) (hl : u.LinesWhole) :
    u.advance.Caches va .load p u.advance := by
  obtain ⟨he, hwf, hlines, -, hu, c, ht, hd, hc⟩ := h
  obtain ⟨haddr, -⟩ := Flow.ok.inj (ht.symm.trans (translateData_flat .store hmmu hmpu))
  obtain ⟨hp, hcache⟩ := Prod.mk.inj haddr
  obtain ⟨mem, dcache, prefetched, readAhead, draws, rfl⟩ : ∃ mem dcache prefetched readAhead draws, u = { s with
      mem := mem, dcache := dcache, prefetched := prefetched, readAhead := readAhead, draws := draws } := ⟨_, _, _, _, _, only⟩
  refine ⟨he, hwf, hlen.trans hlines, hl, hu, c, ?_, hd, hc⟩
  rw [hp, hcache]
  exact translateData_flat .load hmmu hmpu

theorem CachedStore.hits {bs : List Byte} (h : CachedStore s u va p bs) : u.advance.Hits va p := by
  have index : u.advance.dindex va = s.dindex va := by
    rw [h.only]
    rfl
  rw [State.Hits, index]
  exact ⟨h.valid, h.line⟩

/-- A load of the bytes stored finds them (20_memory.md R125, R130). -/
theorem CachedStore.cachedByte_advance {bs : List Byte} (h : CachedStore s u va p bs) {k : Nat} (hk : k < bs.length) :
    u.advance.cachedByte va p k = bs.getD k 0#8 := by
  have index : u.advance.dindex va = s.dindex va := by
    rw [h.only]
    rfl
  rw [cachedByte_line, cachedByte_hit h.hits, index]
  exact h.written k hk

/-- A load that hits changes nothing but `pc` and its register. -/
theorem LinePresent.withDataSide_eq (h : LinePresent s t va p) (hh : s.Hits va p) (hd : t.draws = s.draws) : s.withDataSide t = s := by
  obtain ⟨hmem, hlines, hprefetched, hahead⟩ := h.hit hh
  rw [State.withDataSide, hmem, hlines, hprefetched, hahead, hd]

/-- A word stored through the cache is what a load of the same word reads next, while memory does not change on a hit (20_memory.md R125,
R130). -/
theorem opStore_then_opLoad {a : RegIdx} {imm16 : BitVec 16} (hm : s.mem.wf = true) (h : s.Caches (s.effAddr a imm16) .store p s1)
    (hr : s.Ready) (hmmu : s.cfg.mmu = false) (hmpu : s.mpuOn = false) (ha : 4 ∣ (s.effAddr a imm16).toNat)
    (hmap : ∀ k, k < 4 → s.cfg.dataMapped (p + k) = true) (b c : RegIdx) :
    ∃ t u, opStore false 4 b a imm16 s = .next t ∧ opLoad false 4 extendZero c a imm16 t = .next u
      ∧ LoadResult t u c (s.reg b) (t.pc + 4#32) ∧ (s.Hits (s.effAddr a imm16) p → ∀ x, t.mem.read x = s.mem.read x) := by
  obtain rfl : s = s1 := by
    obtain ⟨-, -, -, -, -, cacheable, ht, -⟩ := h
    exact (Flow.ok.inj ((translateData_flat .store hmmu hmpu).symm.trans ht)).2
  obtain ⟨t, hst, stored, within, whole⟩ := opStore_cached (n := 4) hm h b (by decide) ha
  have regs : t.advance.Ready ∧ t.advance.effAddr a imm16 = s.effAddr a imm16
      ∧ ∀ k, k < 4 → t.advance.cfg.dataMapped (p + k) = true := by
    rw [stored.only]
    exact ⟨hr, rfl, hmap⟩
  obtain ⟨ready, addr, mapped⟩ := regs
  have again : t.advance.Caches (t.advance.effAddr a imm16) .load p t.advance :=
    addr.symm ▸ h.load_after_store hmmu hmpu stored.only within.dcacheLength whole
  obtain ⟨u, hld, there, result⟩ := opLoad_cached (n := 4) ready (within.memWf hm) again c extendZero (by decide) (addr.symm ▸ ha)
  rw [addr] at there result
  have word : (List.range 4).map (t.advance.cachedByte (s.effAddr a imm16) p) = bytesOfWord (s.reg b) := by
    rw [← map_extractLsb'_eq_bytesOfWord]
    refine List.map_congr_left fun k hk => ?_
    have hk : k < 4 := List.mem_range.1 hk
    rw [stored.cachedByte_advance hk, storeBytes_getD _ (by decide) hk]
  rw [if_pos mapped, word] at result
  obtain ⟨result, draws⟩ := result
  rw [there.withDataSide_eq stored.hits (draws stored.hits), extendZero, wordOfByteList_bytesOfWord] at result
  exact ⟨t.advance, u, hst, hld, result, fun hh x => congrArg (·.read x) (stored.hit hh).1⟩

/-- Settles O20: the line made present holds the bytes stored, and a load that follows hits it. -/
theorem cachedStoreResults : Obligations.CachedStoreResults := by
  intro s s1 a b imm16 p hm h va i stores
  have stays := h
  obtain ⟨he, -, -, -, -, c, ht, -⟩ := h
  obtain ⟨d, rfl⟩ := translateData_draws ht he
  have of_store {ins : Instr} {n : Nat} (hn : n ≤ 4)
      (hx : ∃ u, exec ins s = .next u.advance ∧ CachedStore { s with draws := d } u va p (storeBytes (s.reg b) n) ∧ Inner s u
        ∧ u.LinesWhole) : stores ins n := by
    obtain ⟨u, hx, h, -⟩ := hx
    have only : u.advance = State.advance (State.withDataSide { s with draws := d } u) := by
      rw [← h.only]
    have len := storeBytes_length (s.reg b) hn
    refine ⟨u.advance, hx, only, h.kept.elsewhere _ _ _, h.hit, h.memory, h.valid, h.dirty.1, h.dirty.2, h.line, fun k hk => ?_,
      fun o ho hout => h.bytes o ho (len.symm ▸ hout), h.others⟩
    exact (h.written k (len.symm ▸ hk)).trans (storeBytes_getD _ hn hk)
  refine ⟨of_store (by decide) (opStore_cached hm stays b (by decide) (one_dvd _)),
    fun h2 => of_store (by decide) (opStore_cached hm stays b (by decide) (Nat.dvd_of_mod_eq_zero h2)),
    fun h4 => of_store (by decide) (opStore_cached hm stays b (by decide) (Nat.dvd_of_mod_eq_zero h4)),
    fun c hr hmmu hmpu h4 hmap => ?_⟩
  exact opStore_then_opLoad hm stays hr hmmu hmpu (Nat.dvd_of_mod_eq_zero h4) hmap b c

end Machine

end Sys2Proof

/-! ## Misaligned data accesses (O13)

Where the check is off a store makes two aligned units free. `Scrambled` says what one of them costs; the two lie apart, so that what the
second leaves of the first is all of it. -/

namespace Sys2Proof.Machine

open Sys2Proof

variable {s t u : State} {va : Word} {p q n : Nat} {io : Bool} {b a : RegIdx} {imm16 : BitVec 16}

/-! ### Exceptions and loads -/

theorem aligned_eq_false (h : va.toNat % n ≠ 0) : aligned va n = false := Bool.eq_false_iff.2 (mt (aligned_iff va n).1 h)

theorem opLoad_misaligned_checked (extend : Word → Word) (hu : s.UserMay (s.effAddr a imm16)) (hm : (s.effAddr a imm16).toNat % n ≠ 0)
    (hc : s.cfg.misalignedChecked = true) :
    opLoad io n extend b a imm16 s = .next (s.take (.misalignedData (s.effAddr a imm16))) := by
  unfold opLoad memRead userAddressCheck
  rw [hu]
  simp only [Flow.andThen, aligned_eq_false hm, hc, Bool.false_eq_true, if_false, if_true]
  rfl

theorem opStore_misaligned_checked (hu : s.UserMay (s.effAddr a imm16)) (hm : (s.effAddr a imm16).toNat % n ≠ 0)
    (hc : s.cfg.misalignedChecked = true) : opStore io n b a imm16 s = .next (s.take (.misalignedData (s.effAddr a imm16))) := by
  unfold opStore memWrite userAddressCheck
  rw [hu]
  simp only [Flow.andThen, aligned_eq_false hm, hc, Bool.false_eq_true, if_false, if_true]
  rfl

/-- Where the check is off a load takes any value (20_memory.md R108, U5). -/
theorem opLoad_misaligned_unchecked (extend : Word → Word) (hr : s.Ready) (hu : s.UserMay (s.effAddr a imm16))
    (hm : (s.effAddr a imm16).toNat % n ≠ 0) (hc : s.cfg.misalignedChecked = false) :
    ∃ t, opLoad io n extend b a imm16 s = .next t ∧ LoadResult s.drawn t b (Config.freeWord s.draws) (s.pc + 4#32) := by
  have read : memRead io (s.effAddr a imm16) n extend s = .ok (Config.freeWord s.draws) s.drawn := by
    unfold memRead userAddressCheck
    rw [hu]
    simp only [Flow.andThen, aligned_eq_false hm, hc, Bool.false_eq_true, if_false]
  unfold opLoad
  rw [read]
  exact s.drawn.finishLoad_result b _ hr

theorem opStore_misaligned_unchecked (hu : s.UserMay (s.effAddr a imm16)) (hm : (s.effAddr a imm16).toNat % n ≠ 0)
    (hc : s.cfg.misalignedChecked = false) :
    opStore io n b a imm16 s = .next (s.scrambleBoth io (s.effAddr a imm16) n).advance := by
  unfold opStore memWrite userAddressCheck
  rw [hu]
  simp only [Flow.andThen, aligned_eq_false hm, hc, Bool.false_eq_true, if_false]
  rfl

/-! ### The two units -/

theorem alignDown_eq (va : Word) (n : Nat) : alignDown va n = BitVec.ofNat 32 (va.toNat / n * n) := by
  have hle : va.toNat % n ≤ va.toNat := Nat.mod_le _ _
  have hlt := va.isLt
  have hdiv := Nat.div_add_mod' va.toNat n
  apply BitVec.eq_of_toNat_eq
  rw [alignDown, BitVec.toNat_sub, BitVec.toNat_ofNat, BitVec.toNat_ofNat]
  omega

/-- The bypass bit is the only one that a physical address without an MMU may lack (20_memory.md R121). -/
theorem flatPhysical_mod (c : Config) (va : Word) : flatPhysical c va % 2 ^ 31 = va.toNat % 2 ^ 31 := by
  unfold flatPhysical
  split
  · exact and_mod_of_low_ones va _ 31 (by decide)
  · rfl

/-- A unit and its successor lie apart, also where the successor wraps or loses bit 31. -/
theorem units_apart (c : Config) {u : Word} (hn : n = 2 ∨ n = 4) (hu : n ∣ u.toNat) :
    flatPhysical c u + n ≤ flatPhysical c (u + BitVec.ofNat 32 n) ∨ flatPhysical c (u + BitVec.ofNat 32 n) + n ≤ flatPhysical c u := by
  have hp := flatPhysical_mod c u
  have hq := flatPhysical_mod c (u + BitVec.ofNat 32 n)
  have hmod := Nat.mod_eq_zero_of_dvd hu
  rw [BitVec.toNat_add, BitVec.toNat_ofNat] at hq
  obtain rfl | rfl := hn <;> omega

/-! ### One unit made free -/

/-- `x` is none of the `n` bytes from `p` up. -/
def Outside (p n x : Nat) : Prop := x < p ∨ p + n ≤ x

/-- The `n` bytes from `p` up are free in memory and in a line that holds them, and nothing else changes but the ECC mark of their word
(U5, log 22). -/
structure Scrambled (s t : State) (p n : Nat) : Prop where
  only : t = { s with mem := t.mem, dcache := t.dcache, tcmEcc := t.tcmEcc, draws := t.draws }
  noEcc : s.cfg.ecc = false → t.tcmEcc = s.tcmEcc
  marks : ∀ k, k ≠ p / 4 → sparseGet EccMark.none t.tcmEcc k = sparseGet EccMark.none s.tcmEcc k
  frame : ∀ x, Outside p n x → t.mem.read x = s.mem.read x
  free : ∃ d, ∀ k, k < n → t.mem.read (p + k) = if s.cfg.dataRam (p + k) then Config.freeByte d k else s.mem.read (p + k)
  lines : ∀ j, t.dline j = { s.dline j with data := (t.dline j).data }
    ∧ ∀ o, o < 32 → Outside p n ((s.dline j).line * 32 + o) → (t.dline j).data.getD o 0#8 = (s.dline j).data.getD o 0#8

theorem freeBytes_getD (draw : Nat) {n k : Nat} (hk : k < n) : (freeBytes draw n).getD k 0#8 = Config.freeByte draw k := by
  rw [freeBytes, List.getD_eq_getElem _ _ (by simpa using hk), List.getElem_map, List.getElem_range]

/-- Memory after free bytes are stored. -/
theorem busStore_freeBytes (ram : Nat → Bool) {m : Memory} (hm : m.wf = true) (p draw : Nat) {n k : Nat} (hk : k < n) :
    (busStore ram m p (freeBytes draw n)).read (p + k) = if ram (p + k) then Config.freeByte draw k else m.read (p + k) := by
  have hlen : k < (freeBytes draw n).length := by rw [freeBytes_length]; exact hk
  split
  · next hram => rw [busStore_same _ _ _ _ _ hm hlen hram, ← List.getD_eq_getElem _ 0#8 hlen, freeBytes_getD _ hk]
  · next hram => exact busStore_lost _ _ _ _ _ (by simpa using hram)

/-- A line whose bytes were patched from offset `p % 32` up is the line of `p`, and nothing else of it changed. -/
theorem dline_patched {i : Nat} {bs : List Byte} (hl : s.LinesWhole) (hline : (s.dline i).line = p / 32)
    (hf : p % 32 + bs.length ≤ 32) (j : Nat) :
    let t := s.setDline i { s.dline i with data := patchBytes (s.dline i).data (p % 32) bs }
    t.dline j = { s.dline j with data := (t.dline j).data }
      ∧ ∀ o, o < 32 → Outside p bs.length ((s.dline j).line * 32 + o) → (t.dline j).data.getD o 0#8 = (s.dline j).data.getD o 0#8 := by
  intro t
  have here : t.dline j = if j = i ∧ i < s.dcache.length then
      { s.dline i with data := patchBytes (s.dline i).data (p % 32) bs } else s.dline j := dline_setDline_eq s i j _
  by_cases hj : j = i ∧ i < s.dcache.length
  · rw [if_pos hj] at here
    obtain ⟨rfl, -⟩ := hj
    refine ⟨by rw [here], fun o ho hout => ?_⟩
    rw [hline] at hout
    rw [here]
    exact patchBytes_getD_outside (by rw [s.dline_length hl]; exact hf) (by unfold Outside at hout; omega)
  · rw [if_neg hj] at here
    exact ⟨by rw [here], fun o _ _ => by rw [here]⟩

/-- What `scramble` does: the store, and the patch of a line that holds the unit. -/
theorem scramble_cases (s : State) (io : Bool) (va : Word) (n : Nat) : ∃ d,
    let p := flatPhysical s.cfg va
    let stored : State := { s with
      mem := busStore s.cfg.dataRam s.mem p (freeBytes s.draws n), tcmEcc := s.marksWritten p n, draws := d }
    s.scramble io va n = stored ∨ ∃ i bs, bs.length = n ∧ (s.dline i).line = p / 32
      ∧ s.scramble io va n = stored.setDline i { s.dline i with data := patchBytes (s.dline i).data (p % 32) bs } := by
  unfold State.scramble
  dsimp only
  split
  · next h =>
    simp only [Bool.and_eq_true, beq_iff_eq] at h
    exact ⟨s.draws + 1 + 1, .inr ⟨lineIndex s.cfg.dcacheSize va.toNat, _, freeBytes_length _ n, h.2, rfl⟩⟩
  · exact ⟨s.draws + 1, .inl rfl⟩

/-- Free bytes stored at `p`, and lines changed no further than that. -/
theorem Scrambled.of_store (p n d : Nat) (lines : List CacheLine) (hm : s.mem.wf = true)
    (hlines : ∀ j, State.dline { s with dcache := lines } j = { s.dline j with data := (State.dline { s with dcache := lines } j).data }
      ∧ ∀ o, o < 32 → Outside p n ((s.dline j).line * 32 + o) →
        (State.dline { s with dcache := lines } j).data.getD o 0#8 = (s.dline j).data.getD o 0#8) :
    Scrambled s { s with
      mem := busStore s.cfg.dataRam s.mem p (freeBytes s.draws n), tcmEcc := s.marksWritten p n, dcache := lines, draws := d } p n where
  only := rfl
  noEcc he := by simp [State.marksWritten, he]
  marks := marksWritten_other s p n
  frame x hx := busStore_other _ _ _ _ _ (by rw [freeBytes_length]; exact hx)
  free := ⟨s.draws, fun k hk => busStore_freeBytes _ hm _ _ hk⟩
  lines := hlines

theorem scramble_scrambled (io : Bool) (hn : n ∣ 32) (hva : n ∣ va.toNat) (hm : s.mem.wf = true) (hl : s.LinesWhole) :
    Scrambled s (s.scramble io va n) (flatPhysical s.cfg va) n := by
  have hf := line_offset_fits hn (flatPhysical_low s.cfg va) hva
  obtain ⟨d, hs⟩ := scramble_cases s io va n
  rcases hs with hs | ⟨i, bs, hlen, hline, hs⟩
  · rw [hs]
    exact .of_store _ n d s.dcache hm fun j => ⟨rfl, fun _ _ _ => rfl⟩
  · rw [hs]
    subst hlen
    exact .of_store _ _ d _ hm (dline_patched hl hline hf)

/-! ### Both units made free -/

theorem outside_of_not_mem_wordsOf {k : Nat} (hn : 0 < n) (h : k ∉ wordsOf p n) {j : Nat} (hj : j < 4) : Outside p n (4 * k + j) := by
  rw [wordsOf, if_neg (by omega), List.mem_range'_1] at h
  unfold Outside
  omega

/-- An instruction word that a freed unit does not touch stays. -/
theorem Scrambled.instrWord {k : Nat} (h : Scrambled s t p n) (hn : 0 < n) (hk : k ∉ wordsOf p n) : t.instrWord k = s.instrWord k := by
  have hout {j : Nat} (hj : j < 4) : Outside p n (4 * k + j) := outside_of_not_mem_wordsOf hn hk hj
  refine instrWord_congr (by rw [h.only]) (by rw [h.only]) k (h.marks _ ?_) (List.map_congr_left fun j hj => h.frame _ ?_)
  · have h0 := hout (j := p % 4) (by omega)
    unfold Outside at h0
    omega
  · have hj := hout (List.mem_range.1 hj)
    rwa [show 4 * k / 4 * 4 + j = 4 * k + j by omega]

/-- What two freed units leave, the first at `p` and the second at `q` (20_memory.md R108, U5). -/
structure ScrambledBoth (s t : State) (p q n : Nat) : Prop where
  only : t = { s with
    mem := t.mem, dcache := t.dcache, tcmEcc := t.tcmEcc, prefetched := t.prefetched, readAhead := t.readAhead, draws := t.draws }
  noEcc : s.cfg.ecc = false → t.tcmEcc = s.tcmEcc
  marks : ∀ k, (∀ j, j < 4 → Outside p n (4 * k + j) ∧ Outside q n (4 * k + j)) →
    sparseGet EccMark.none t.tcmEcc k = sparseGet EccMark.none s.tcmEcc k
  frame : ∀ x, Outside p n x ∧ Outside q n x → t.mem.read x = s.mem.read x
  freeFirst : ∃ d, ∀ k, k < n → t.mem.read (p + k) = if s.cfg.dataRam (p + k) then Config.freeByte d k else s.mem.read (p + k)
  freeSecond : ∃ d, ∀ k, k < n → t.mem.read (q + k) = if s.cfg.dataRam (q + k) then Config.freeByte d k else s.mem.read (q + k)
  lines : ∀ j, t.dline j = { s.dline j with data := (t.dline j).data }
    ∧ ∀ o, o < 32 → Outside p n ((s.dline j).line * 32 + o) ∧ Outside q n ((s.dline j).line * 32 + o) →
      (t.dline j).data.getD o 0#8 = (s.dline j).data.getD o 0#8
  kept : KeepsPrefetched s t

theorem word_ne_of_outside {k : Nat} (hn : 0 < n) (h : ∀ j, j < 4 → Outside p n (4 * k + j)) : k ≠ p / 4 := by
  have h0 := h (p % 4) (by omega)
  unfold Outside at h0
  omega

theorem keepPrefetched_only (s t : State) (ks : List Nat) : s.keepPrefetched t ks =
    { t with prefetched := (s.keepPrefetched t ks).prefetched, readAhead := (s.keepPrefetched t ks).readAhead } := by
  unfold State.keepPrefetched
  split <;> rfl

/-- The freeing of one unit, then of another that lies apart. -/
theorem Scrambled.both (hn : 0 < n) (hpq : p + n ≤ q ∨ q + n ≤ p) (h : Scrambled s t p n) (g : Scrambled t u q n) :
    ScrambledBoth s (s.keepPrefetched u (wordsOf p n ++ wordsOf q n)) p q n := by
  have hcfg : t.cfg = s.cfg := by rw [h.only]
  have only : u = { s with mem := u.mem, dcache := u.dcache, tcmEcc := u.tcmEcc, draws := u.draws } := by
    rw [g.only, h.only]
  have kept : KeepsPrefetched s (s.keepPrefetched u (wordsOf p n ++ wordsOf q n)) := by
    refine keepPrefetched_keeps s u _ (by rw [only]) (by rw [only]) fun k hk => ?_
    rw [List.mem_append, not_or] at hk
    exact (g.instrWord hn hk.2).trans (h.instrWord hn hk.1)
  rw [keepPrefetched_only] at kept ⊢
  exact {
    only := by rw [only]
    noEcc := fun he => (g.noEcc (hcfg ▸ he)).trans (h.noEcc he)
    marks := fun k hk => (g.marks k (word_ne_of_outside hn fun j hj => (hk j hj).2)).trans
      (h.marks k (word_ne_of_outside hn fun j hj => (hk j hj).1))
    frame := fun x hx => (g.frame x hx.2).trans (h.frame x hx.1)
    freeFirst := by
      obtain ⟨d, hd⟩ := h.free
      exact ⟨d, fun k hk => (g.frame _ (by unfold Outside; omega)).trans (hd k hk)⟩
    freeSecond := by
      obtain ⟨d, hd⟩ := g.free
      refine ⟨d, fun k hk => ?_⟩
      rw [← hcfg, ← h.frame (q + k) (by unfold Outside; omega)]
      exact hd k hk
    lines := fun j => by
      obtain ⟨hj, hdata⟩ := h.lines j
      obtain ⟨gj, gdata⟩ := g.lines j
      have hline : (t.dline j).line = (s.dline j).line := by rw [hj]
      refine ⟨?_, fun o ho hout => (gdata o ho (hline.symm ▸ hout.2)).trans (hdata o ho hout.1)⟩
      refine gj.trans ?_
      rw [hj]
      rfl
    kept := kept }

/-- A misaligned store with the check off (20_memory.md R108, U5). -/
theorem scrambleBoth_scrambled (io : Bool) (va : Word) (hn : n = 2 ∨ n = 4) (hm : s.mem.wf = true) (hl : s.LinesWhole) :
    ScrambledBoth s (s.scrambleBoth io va n) (flatPhysical s.cfg (alignDown va n))
      (flatPhysical s.cfg (alignDown va n + BitVec.ofNat 32 n)) n := by
  have h32 : 0 < n ∧ n ∣ 32 := by obtain rfl | rfl := hn <;> decide
  have hu := dvd_alignDown n va
  have inner := inner_scramble s io (alignDown va n) n
  have first := scramble_scrambled io h32.2 hu hm hl
  have second := scramble_scrambled io h32.2 (dvd_add_ofNat h32.2 hu) (inner.memWf hm) (hl.scramble io h32.2 hu)
  rw [inner.cfg] at second
  exact first.both h32.1 (units_apart s.cfg hn hu) second

/-- Settles O13: with the check on the exception, with it off a free value or the two units made free. -/
theorem misalignedDataAccess : Obligations.MisalignedDataAccess := by
  intro s a b imm16 hr hu hm hl va raises free unit p q outside scrambles
  have store {i : Instr} {io : Bool} {n : Nat} (hn : n = 2 ∨ n = 4) (hx : exec i s = .next (s.scrambleBoth io va n).advance) :
      scrambles i n := by
    have h := scrambleBoth_scrambled io va hn hm hl
    rw [alignDown_eq] at h
    have only := congrArg State.advance h.only
    exact ⟨_, hx, only, h.noEcc, h.marks, h.frame, h.freeFirst, h.freeSecond, h.lines, h.kept.elsewhere _ _ _⟩
  refine ⟨fun h2 => ⟨fun hc => ?_, fun hc => ?_⟩, fun h4 => ⟨fun hc => ?_, fun hc => ?_⟩⟩
  · exact ⟨⟨opLoad_misaligned_checked _ hu h2 hc, rfl⟩, ⟨opLoad_misaligned_checked _ hu h2 hc, rfl⟩,
      ⟨opLoad_misaligned_checked _ hu h2 hc, rfl⟩, ⟨opLoad_misaligned_checked _ hu h2 hc, rfl⟩,
      ⟨opStore_misaligned_checked hu h2 hc, rfl⟩, ⟨opStore_misaligned_checked hu h2 hc, rfl⟩⟩
  · exact ⟨opLoad_misaligned_unchecked _ hr hu h2 hc, opLoad_misaligned_unchecked _ hr hu h2 hc,
      opLoad_misaligned_unchecked _ hr hu h2 hc, opLoad_misaligned_unchecked _ hr hu h2 hc,
      store (.inl rfl) (opStore_misaligned_unchecked hu h2 hc), store (.inl rfl) (opStore_misaligned_unchecked hu h2 hc)⟩
  · exact ⟨⟨opLoad_misaligned_checked _ hu h4 hc, rfl⟩, ⟨opLoad_misaligned_checked _ hu h4 hc, rfl⟩,
      ⟨opStore_misaligned_checked hu h4 hc, rfl⟩, ⟨opStore_misaligned_checked hu h4 hc, rfl⟩⟩
  · exact ⟨opLoad_misaligned_unchecked _ hr hu h4 hc, opLoad_misaligned_unchecked _ hr hu h4 hc,
      store (.inr rfl) (opStore_misaligned_unchecked hu h4 hc), store (.inr rfl) (opStore_misaligned_unchecked hu h4 hc)⟩

end Sys2Proof.Machine

/-! ## Addresses that no table decides, and what user mode may not do (O15, O14)

The physical address of an access without an MMU and the one of the upper partition as numbers; and the check of user mode, which ends a
load, a store, `flushda` or `initda` before its address is looked at any further. -/

namespace Sys2Proof.Machine

open Sys2Proof

variable {s : State} {va : Word} {a b : RegIdx} {imm16 : BitVec 16}

/-! ### Addresses -/

/-- Without an MMU the address is its own but for the bypass bit (20_memory.md R104, R121). -/
theorem flatPhysical_eq (c : Config) (va : Word) : flatPhysical c va = if c.bypass31 then va.toNat % 2 ^ 31 else va.toNat := by
  unfold flatPhysical
  split
  · rw [BitVec.toNat_and]
    exact Nat.and_two_pow_sub_one_eq_mod va.toNat 31
  · rfl

theorem bit_31_eq (va : Word) : bit va 31 = decide (2 ^ 31 ≤ va.toNat) := BitVec.msb_eq_decide va

theorem inPeriph_eq (c : Config) (p : Nat) :
    inPeriph c p = c.periphRegion.any (fun g => decide (g.base ≤ p ∧ p < g.base + g.size)) := by
  unfold inPeriph
  cases c.periphRegion with
  | none => rfl
  | some g => simp [Span.has]

/-- Bit 29 tells the kernel partition from the I/O partition above it (21_mmu_mpu.md R152). -/
theorem not_bit_29_eq (hva : 0xC0000000 ≤ va.toNat) : (!bit va 29) = decide (va.toNat < 0xE0000000) := by
  have hlt := va.isLt
  have hb : bit va 29 = decide (va.toNat / 2 ^ 29 % 2 = 1) := Nat.testBit_eq_decide_div_mod_eq
  rw [hb, ← decide_not, decide_eq_decide]
  omega

/-- Settles O15: by the flat translation without an MMU, by the branch that bypasses the TLB with one. -/
theorem unmappedTranslation : Obligations.UnmappedTranslation := by
  intro s va kind
  refine ⟨fun hm hoff => ?_, fun hm hva => ⟨?_, fun hu => mmuFetch_bypass hu hva, fun hu => ?_⟩⟩
  · rw [translateData_flat kind hm hoff]
    simp only [flatCacheable, Bool.and_true, flatPhysical_eq, bit_31_eq, inPeriph_eq]
  · simp only [translateData, hm, mmuData, (bypassesTlb_iff va).2 hva, lowPhysical_eq, not_bit_29_eq hva, if_true]
  · simp only [mmuFetch, (bypassesTlb_iff va).2 hva, hu, if_true]
    rfl

/-! ### User mode -/

theorem userAddressCheck_refused (hm : s.cfg.mmu = true) (hu : stU s.status = true) (hb : bit va 31 = true) :
    userAddressCheck va s = .stop (.next (s.take (.supervisorOnlyDataAddr va))) := by
  simp only [userAddressCheck, hm, hu, hb, Bool.and_self, if_true]
  rfl

/-- What the check of user mode stops ends a load, whatever its width and alignment (21_mmu_mpu.md R154). -/
theorem opLoad_refused {r : Result} (io : Bool) (n : Nat) (extend : Word → Word) (b : RegIdx)
    (h : userAddressCheck (s.effAddr a imm16) s = .stop r) : opLoad io n extend b a imm16 s = r := by
  simp only [opLoad, memRead, h, Flow.andThen, Flow.bind]

theorem opStore_refused {r : Result} (io : Bool) (n : Nat) (b : RegIdx)
    (h : userAddressCheck (s.effAddr a imm16) s = .stop r) : opStore io n b a imm16 s = r := by
  simp only [opStore, memWrite, h, Flow.andThen, Flow.bind]

theorem cacheOpTranslate_refused {r : Result} (kind : AccessKind) (h : userAddressCheck va s = .stop r) :
    cacheOpTranslate va kind s = .stop r := by
  simp only [cacheOpTranslate, h, Flow.andThen]

theorem supervisorOnly_user (hu : stU s.status = true) (rest : Result) :
    supervisorOnly s rest = .next (s.take .supervisorOnlyInstr) := if_pos hu

/-- Settles O14: the address check stops the data accesses, `SupervisorCheck` the eight instructions. -/
theorem userModeTraps : Obligations.UserModeTraps := by
  intro s a b imm16 n hu
  refine ⟨?_, ?_⟩
  · intro hm hb raises
    have refused := userAddressCheck_refused hm hu hb
    have load (io : Bool) (n : Nat) (extend : Word → Word) := opLoad_refused io n extend b refused
    have store (io : Bool) (n : Nat) := opStore_refused io n b refused
    have flushda : execFlushda a imm16 s = .next (s.take (.supervisorOnlyDataAddr (s.effAddr a imm16))) := by
      rw [execFlushda, cacheOpTranslate_refused _ refused]
      rfl
    have initda (hi : s.cfg.initdaImplemented = true) :
        execInitda a imm16 s = .next (s.take (.supervisorOnlyDataAddr (s.effAddr a imm16))) := by
      rw [execInitda, whenImplemented, if_pos hi, cacheOpTranslate_refused _ refused]
      rfl
    exact ⟨⟨load _ _ _, rfl⟩, ⟨load _ _ _, rfl⟩, ⟨load _ _ _, rfl⟩, ⟨load _ _ _, rfl⟩, ⟨load _ _ _, rfl⟩, ⟨load _ _ _, rfl⟩,
      ⟨load _ _ _, rfl⟩, ⟨load _ _ _, rfl⟩, ⟨load _ _ _, rfl⟩, ⟨load _ _ _, rfl⟩, ⟨store _ _, rfl⟩, ⟨store _ _, rfl⟩,
      ⟨store _ _, rfl⟩, ⟨store _ _, rfl⟩, ⟨store _ _, rfl⟩, ⟨store _ _, rfl⟩, ⟨flushda, rfl⟩, fun hi => ⟨initda hi, rfl⟩⟩
  · have traps := supervisorOnly_user hu
    refine ⟨⟨traps _, rfl⟩, ⟨traps _, rfl⟩, ⟨traps _, rfl⟩, ⟨traps _, rfl⟩, ⟨traps _, rfl⟩, ⟨traps _, rfl⟩, fun hs => ?_⟩
    exact ⟨⟨(if_neg hs).trans (traps _), rfl⟩, ⟨(if_neg hs).trans (traps _), rfl⟩⟩

end Sys2Proof.Machine

/-! ## Translation through the TLB, and the accesses that it stops (O16)

Without ECC a lookup finds the entries that match and leaves the state, so an address of the mapped partitions has three cases: no entry,
one, or more. What stops a translation or the access behind it ends the instruction, whatever the instruction would do then. -/

namespace Sys2Proof.Machine

open Sys2Proof

variable {s s1 : State} {va : Word} {a b : RegIdx} {imm16 : BitVec 16} {e : TlbEntry} {kind : AccessKind}

/-! ### The three answers of a lookup -/

theorem bypassesTlb_of_lt (hva : va.toNat < 0xC0000000) : bypassesTlb va = false :=
  Bool.eq_false_iff.2 (mt (bypassesTlb_iff va).1 (by omega))

/-- Without ECC a lookup reads the matching entries (21_mmu_mpu.md R156). -/
theorem tlbHits_eq_tlbFinds (he : s.cfg.ecc = false) :
    s.tlbHits (vpnOf va) (s.tlbWaysOf (vpnOf va)) 0 = s.tlbFinds (va.extractLsb' 12 20) := tlbHits_noEcc s _ _ _ he

section

variable {α : Type} {miss : Exc} {hit : TlbEntry → State → Flow α}

theorem tlbLookup_none (he : s.cfg.ecc = false) (hf : s.tlbFinds (va.extractLsb' 12 20) = []) :
    tlbLookup va s miss hit = .stop (.next (s.take miss)) := by
  simp only [tlbLookup, tlbHits_eq_tlbFinds he, hf, tlbSettled_noEcc s _ he]
  rfl

theorem tlbLookup_one (he : s.cfg.ecc = false) (hf : s.tlbFinds (va.extractLsb' 12 20) = [e]) :
    tlbLookup va s miss hit = hit e s := by
  simp only [tlbLookup, tlbHits_eq_tlbFinds he, hf, tlbSettled_noEcc s _ he]

theorem tlbLookup_many {e1 e2 : TlbEntry} {es : List TlbEntry} (he : s.cfg.ecc = false)
    (hf : s.tlbFinds (va.extractLsb' 12 20) = e1 :: e2 :: es) : tlbLookup va s miss hit = .stop (.fault .multipleTlbMatch) := by
  simp only [tlbLookup, tlbHits_eq_tlbFinds he, hf]

/-- A lookup that answers does so from one entry, in the state that the reading of the line leaves. -/
theorem tlbLookup_ok {x : α} (h : tlbLookup va s miss hit = .ok x s1) : ∃ e, hit e (s.tlbSettled (vpnOf va)) = .ok x s1 := by
  unfold tlbLookup at h
  split at h
  · cases h
  · exact ⟨_, h⟩
  · cases h

end

/-! ### A data address of the mapped partitions (21_mmu_mpu.md R157, R167) -/

/-- What a data access makes of the entry that its lookup finds. -/
def dataHit (va : Word) (kind : AccessKind) (e : TlbEntry) (s : State) : Flow (Nat × Bool) :=
  if kind = .load ∧ e.r = false then .stop (.next (s.take (.tlbPermRead va)))
  else if kind = .store ∧ e.w = false then .stop (.next (s.take (.tlbPermWrite va)))
  else .ok (e.pfn.toNat * 4096 + va.toNat % 4096, e.c) s

theorem translateData_mapped (hm : s.cfg.mmu = true) (he : s.cfg.ecc = false) (hva : va.toNat < 0xC0000000) :
    translateData va kind s = tlbLookup va s (.tlbMissData va) (dataHit va kind) := by
  simp only [translateData, hm, mmuData, bypassesTlb_of_lt hva, tlbFatal_noEcc s _ he, Bool.false_eq_true, if_false, if_true]
  refine congrArg (tlbLookup va s (.tlbMissData va)) (funext fun e => funext fun s1 => ?_)
  cases kind with
  | load => cases hr : e.r <;> simp [dataHit, tlbRefuses, hr, framePhysical_eq, raise]
  | store => cases hw : e.w <;> simp [dataHit, tlbRefuses, hw, framePhysical_eq, raise]
  | flushda => simp [dataHit, tlbRefuses, framePhysical_eq]
  | initda => simp [dataHit, tlbRefuses, framePhysical_eq]

/-! ### A fetch from the mapped partitions (21_mmu_mpu.md R168) -/

/-- What a fetch makes of the entry that its lookup finds. -/
def fetchHit (va : Word) (e : TlbEntry) (s : State) : Flow Nat :=
  if e.x then .ok (e.pfn.toNat * 4096 + va.toNat % 4096) s else .stop (.next (s.take .tlbPermExecute))

theorem mmuFetch_mapped (he : s.cfg.ecc = false) (hva : va.toNat < 0xC0000000) (hu : (stU s.status && bit va 31) = false) :
    mmuFetch va s = tlbLookup va s .tlbMissInstr (fetchHit va) := by
  simp only [mmuFetch, bypassesTlb_of_lt hva, tlbFatal_noEcc s _ he, hu, Bool.false_eq_true, if_false, framePhysical_eq]
  rfl

/-! ### What a translation changes -/

theorem tlbSettled_only (s : State) (vpn : BitVec 20) : s.tlbSettled vpn =
    { s with tlb := (s.tlbSettled vpn).tlb, eccBus := (s.tlbSettled vpn).eccBus, draws := (s.tlbSettled vpn).draws } := by
  unfold State.tlbSettled
  dsimp only
  split
  · rfl
  · split <;> split <;> rfl

/-- A translation that answers leaves the state, the line of the TLB read, or one draw. -/
theorem translateData_state {r : Nat × Bool} (h : translateData va kind s = .ok r s1) :
    s1 = s ∨ s1 = s.tlbSettled (vpnOf va) ∨ s1 = s.drawn := by
  unfold translateData at h
  split at h
  · unfold mmuData at h
    split at h
    · injection h with _ h
      exact .inl h.symm
    · split at h
      · cases h
      · obtain ⟨e, hit⟩ := tlbLookup_ok h
        cases hr : tlbRefuses kind va e with
        | some x =>
          rw [hr] at hit
          cases hit
        | none =>
          rw [hr] at hit
          injection hit with _ hit
          exact .inr (.inl hit.symm)
  · dsimp only at h
    cases hm : mpuData va (flatPhysical s.cfg va) kind s with
    | stop o =>
      rw [hm] at h
      cases h
    | ok mt s2 =>
      obtain rfl := mpuData_ok hm
      rw [hm] at h
      injection h with _ h
      split at h
      · exact .inr (.inr h.symm)
      · exact .inl h.symm

/-- A translation changes the TLB, the ECC signals and the draw counter at most (21_mmu_mpu.md R150). -/
theorem translateData_only {r : Nat × Bool} (h : translateData va kind s = .ok r s1) :
    s1 = { s with tlb := s1.tlb, eccBus := s1.eccBus, draws := s1.draws } := by
  rcases translateData_state h with rfl | rfl | rfl
  · rfl
  · exact tlbSettled_only s _
  · rfl

/-! ### What stops an access ends its instruction (20_memory.md R110 to R112) -/

theorem userAddressCheck_passed (hu : s.UserMay va) : userAddressCheck va s = .ok () s := by
  unfold userAddressCheck
  rw [hu]
  rfl

theorem opLoad_stops (io : Bool) {n : Nat} (extend : Word → Word) (b : RegIdx) (hu : s.UserMay (s.effAddr a imm16))
    (ha : (s.effAddr a imm16).toNat % n = 0) :
    (∀ r, translateData (s.effAddr a imm16) .load s = .stop r → opLoad io n extend b a imm16 s = r)
    ∧ ∀ p c s1 r, translateData (s.effAddr a imm16) .load s = .ok (p, c) s1 →
      physRead (s.effAddr a imm16) io c p n s1 = .stop r → opLoad io n extend b a imm16 s = r := by
  unfold opLoad memRead
  rw [userAddressCheck_passed hu]
  refine ⟨fun r ht => ?_, fun p c s1 r ht hp => ?_⟩
  · simp only [Flow.andThen, (aligned_iff _ n).2 ha, if_true, ht, Flow.bind]
  · simp only [Flow.andThen, (aligned_iff _ n).2 ha, if_true, ht, hp, Flow.bind]

theorem opStore_stops (io : Bool) {n : Nat} (b : RegIdx) (hu : s.UserMay (s.effAddr a imm16))
    (ha : (s.effAddr a imm16).toNat % n = 0) :
    (∀ r, translateData (s.effAddr a imm16) .store s = .stop r → opStore io n b a imm16 s = r)
    ∧ ∀ p c s1 r, translateData (s.effAddr a imm16) .store s = .ok (p, c) s1 →
      physWrite (s.effAddr a imm16) io c p (storeBytes (s.reg b) n) s1 = .stop r → opStore io n b a imm16 s = r := by
  unfold opStore memWrite alignedWrite
  rw [userAddressCheck_passed hu]
  refine ⟨fun r ht => ?_, fun p c s1 r ht hp => ?_⟩
  · simp only [Flow.andThen, (aligned_iff _ n).2 ha, if_true, ht, Flow.bind]
  · simp only [Flow.andThen, (aligned_iff _ n).2 ha, if_true, ht, hp, Flow.bind]

/-- `flushda` and `initda`: `op` is what they do at the translated address (46_other_control.md R405). -/
theorem cacheOp_stops (op : Nat → State → Flow Unit) (hu : s.UserMay va) :
    let runs : Result := (cacheOpTranslate va kind s).bind fun p s1 => (op p s1).bind fun _ s2 => .next s2.advance
    (∀ r, translateData va kind s = .stop r → runs = r)
    ∧ ∀ p c s1 r, translateData va kind s = .ok (p, c) s1 → op p s1 = .stop r → runs = r := by
  refine ⟨fun r ht => ?_, fun p c s1 r ht hp => ?_⟩
  · simp only [cacheOpTranslate, userAddressCheck_passed hu, Flow.andThen, ht, Flow.bind]
  · simp only [cacheOpTranslate_ok ht hu, Flow.bind, hp]

/-- Settles O16: the instructions by what stops them, a translation by the state that it leaves, a mapped address by how many entries
match it. -/
theorem tlbTranslation : Obligations.TlbTranslation := by
  refine ⟨?_, fun s s1 va kind p c h => ⟨translateData_only h, fun he => ?_⟩, fun s va kind hm he hva => ?_⟩
  · intro s a b imm16 hu va stops bytes load store
    have loads (io : Bool) {n : Nat} (extend : Word → Word) (ha : va.toNat % n = 0) := opLoad_stops io extend b hu ha
    have stores (io : Bool) {n : Nat} (ha : va.toNat % n = 0) := opStore_stops io b hu ha
    refine ⟨loads _ _, loads _ _, loads _ _, loads _ _, loads _ _, loads _ _, loads _ _, loads _ _, loads _ _, loads _ _,
      stores _, stores _, stores _, stores _, stores _, stores _, cacheOp_stops (dcacheFlushAddr va) hu, fun hi => ?_⟩
    have present : exec (.initda a imm16) s = _ := if_pos hi
    have initda := cacheOp_stops (kind := .initda) (dcacheInitAddr va) hu
    rw [← present] at initda
    exact initda
  · obtain ⟨d, rfl⟩ := translateData_draws h he
    exact ⟨rfl, rfl⟩
  · rw [translateData_mapped hm he hva]
    split
    · next hf => exact ⟨tlbLookup_none he hf, fun hu => by rw [mmuFetch_mapped he hva hu, tlbLookup_none he hf]⟩
    · next e hf => exact ⟨tlbLookup_one he hf, fun hu => by rw [mmuFetch_mapped he hva hu, tlbLookup_one he hf, fetchHit]⟩
    · next hf => exact ⟨tlbLookup_many he hf, fun hu => by rw [mmuFetch_mapped he hva hu, tlbLookup_many he hf]⟩

end Sys2Proof.Machine

/-! ## The fetch that memory management refuses (O18)

What stops the translation of a fetch stops the step. An MPU violation is raised late instead: the word is fetched all the same and the
exception of the fetch is taken whatever it is. -/

namespace Sys2Proof.Machine

open Sys2Proof

variable {s : State} {va : Word} {g : MpuRegion}

/-! ### Addresses that the MPU refuses (21_mmu_mpu.md R174 to R176) -/

/-- An address outside the instruction address width matches no region (21_mmu_mpu.md R173). -/
theorem mpuFetch_outside (hon : s.mpuOn = true) (hw : 2 ^ s.cfg.iaddrWidth ≤ va.toNat) : mpuFetch va s = .ok true s := by
  simp [mpuFetch, hon, inWidth, Nat.not_lt.2 hw]

theorem mpuFetch_unmatched (hon : s.mpuOn = true) (ha : ∀ g ∈ s.iregions, regionMisaligned s.cfg g = false)
    (hg : s.iregions.find? (fun g => regionMatches s.cfg g va.toNat) = none) : mpuFetch va s = .ok true s := by
  rcases Nat.lt_or_ge va.toNat (2 ^ s.cfg.iaddrWidth) with hw | hw
  · simp only [mpuFetch, hon, inWidth, hw, decide_true, if_true, decidingRegion_eq_find? _ _ ha, hg]
  · exact mpuFetch_outside hon hw

theorem permExecute_refused {perm : BitVec 3} {user : Bool} (h : perm = 0#3 ∨ (perm = 1#3 ∧ user = true)) :
    permExecute perm user = some false := by
  rcases h with rfl | ⟨rfl, rfl⟩ <;> rfl

theorem permExecute_reserved {perm : BitVec 3} (user : Bool) (h : 3 ≤ perm.toNat) : permExecute perm user = none := by
  have ne (n : BitVec 3) (hn : n.toNat < 3) : perm ≠ n := fun hp => by
    subst hp
    omega
  unfold permExecute
  split
  · exact absurd rfl (ne _ (by decide))
  · exact absurd rfl (ne _ (by decide))
  · exact absurd rfl (ne _ (by decide))
  · rfl

theorem mpuFetch_refused (hon : s.mpuOn = true) (ha : ∀ g ∈ s.iregions, regionMisaligned s.cfg g = false)
    (hg : s.iregions.find? (fun g => regionMatches s.cfg g va.toNat) = some g)
    (hp : g.perm = 0#3 ∨ (g.perm = 1#3 ∧ stU s.status = true)) : mpuFetch va s = .ok true s := by
  rcases Nat.lt_or_ge va.toNat (2 ^ s.cfg.iaddrWidth) with hw | hw
  · simp only [mpuFetch, hon, inWidth, hw, decide_true, if_true, decidingRegion_eq_find? _ _ ha, hg, permExecute_refused hp,
      Bool.not_false]
  · exact mpuFetch_outside hon hw

theorem mpuFetch_reserved (hon : s.mpuOn = true) (ha : ∀ g ∈ s.iregions, regionMisaligned s.cfg g = false)
    (hw : va.toNat < 2 ^ s.cfg.iaddrWidth) (hg : s.iregions.find? (fun g => regionMatches s.cfg g va.toNat) = some g)
    (hp : 3 ≤ g.perm.toNat) : mpuFetch va s = .stop (.fault .reservedMpuPermission) := by
  simp only [mpuFetch, hon, inWidth, hw, decide_true, if_true, decidingRegion_eq_find? _ _ ha, hg, permExecute_reserved _ hp]

/-- A fetch of user mode from the kernel's half (21_mmu_mpu.md R168). -/
theorem mmuFetch_user (he : s.cfg.ecc = false) (hu : stU s.status = true) (hb : bit va 31 = true) :
    mmuFetch va s = .stop (.next (s.take .supervisorOnlyInstrAddr)) := by
  simp only [mmuFetch, hu, hb, tlbFatal_noEcc s _ he, Bool.and_self, Bool.false_eq_true, if_true, if_false, ite_self]
  rfl

/-! ### The step -/

theorem fetch_mmu_stop {r : Result} (ha : s.PcAligned) (hm : s.cfg.mmu = true) (ht : mmuFetch s.pc s = .stop r) :
    fetch s = .stop r := by
  unfold fetch
  rw [if_pos (show field s.pc 0 2 = 0#2 from ha), if_pos hm, ht]
  rfl

theorem fetch_mpu_stop {r : Result} (ha : s.PcAligned) (hm : s.cfg.mmu = false) (ht : mpuFetch s.pc s = .stop r) :
    fetch s = .stop r := by
  unfold fetch
  rw [if_pos (show field s.pc 0 2 = 0#2 from ha), if_neg (by simp [hm]), ht]
  rfl

/-- A fetch that violates an MPU region still delivers a word, and the exception with it (21_mmu_mpu.md R177). -/
theorem fetch_violates (ha : s.PcAligned) (hm : s.cfg.mmu = false) (he : s.cfg.ecc = false) (ht : mpuFetch s.pc s = .ok true s) :
    ∃ w, fetch s = .ok { word := w, late := some .mpuInstr } s := by
  obtain ⟨w, s1, hp⟩ := physFetch_noEcc s.pc s.pc.toNat s he
  obtain ⟨t, f, d, others, hf, -⟩ := fetchAt_found hp
  refine ⟨f.word, ?_⟩
  unfold fetch
  rw [if_pos (show field s.pc 0 2 = 0#2 from ha), if_neg (by simp [hm]), ht]
  simp only [Flow.andThen, hf, if_true]

/-- What stops the fetch is the outcome of the step. -/
theorem step_of_fetch_stop {r : Result} (hq : s.Quiet) (hc : s.SetImplemented) (hf : fetch { s with eccBus := 0#30 } = .stop r) :
    step s = r := by
  rw [step_quiet hq hc, hf]
  rfl

theorem step_of_violation (hq : s.Quiet) (hc : s.SetImplemented) (ha : s.PcAligned) (hm : s.cfg.mmu = false) (he : s.cfg.ecc = false)
    (ht : mpuFetch s.pc { s with eccBus := 0#30 } = .ok true { s with eccBus := 0#30 }) :
    step s = .next (State.take { s with eccBus := 0#30 } .mpuInstr) := by
  obtain ⟨w, hf⟩ := fetch_violates (s := { s with eccBus := 0#30 }) ha hm he ht
  rw [step_quiet hq hc, hf]
  exact runWord_late _ .mpuInstr rfl _ he

/-- Settles O18: each refusal stops the fetch, or, of the MPU, is raised late. -/
theorem fetchExceptions : Obligations.FetchExceptions := by
  intro s hq hc ha he s0
  refine ⟨fun hm => ?_, ?_⟩
  · have stops {r : Result} (ht : mmuFetch s.pc s0 = .stop r) : step s = r := step_of_fetch_stop hq hc (fetch_mmu_stop ha hm ht)
    refine ⟨fun hu hb => stops (mmuFetch_user he hu hb), fun hva hu => ?_⟩
    have mapped : mmuFetch s.pc s0 = tlbLookup s.pc s0 .tlbMissInstr (fetchHit s.pc) := mmuFetch_mapped he hva hu
    refine ⟨fun hf => stops (mapped.trans (tlbLookup_none he hf)), fun e hf hx => stops (mapped.trans ?_),
      fun e1 e2 es hf => stops (mapped.trans (tlbLookup_many he hf))⟩
    rw [tlbLookup_one (s := s0) he hf, fetchHit, if_neg (by simp [hx])]
  · intro hm hon hal first
    have violates (ht : mpuFetch s.pc s0 = .ok true s0) : step s = .next (s0.take .mpuInstr) := step_of_violation hq hc ha hm he ht
    exact ⟨fun hw => violates (mpuFetch_outside hon hw), fun hf => violates (mpuFetch_unmatched hon hal hf),
      fun g hf => ⟨fun hp => violates (mpuFetch_refused hon hal hf hp),
        fun hw hp => step_of_fetch_stop hq hc (fetch_mpu_stop ha hm (mpuFetch_reserved hon hal hw hf hp))⟩⟩

end Sys2Proof.Machine

/-! ## The MPU's check of a data access (O17)

Where every region is aligned the first that matches decides: its PERM gives one of three answers, violation, stop or grant, and of a grant
MT and the address say whether it may be cached. -/

namespace Sys2Proof.Machine

open Sys2Proof

variable {s : State} {va : Word} {kind : AccessKind} {g : MpuRegion} {p : Nat}

/-! ### The deciding region -/

/-- The data region that decides about an address: the first that matches, and none outside the data address width (21_mmu_mpu.md
R173, R174). -/
def State.dataRegion (s : State) (p : Nat) : Option MpuRegion :=
  if inWidth s.cfg.daddrWidth p then s.dregions.find? (fun g => regionMatches s.cfg g p) else none

theorem regionMatches_eq (c : Config) (g : MpuRegion) (p : Nat) : regionMatches c g p =
    if c.mpuUseLimit then decide (g.base.toNat * 256 ≤ p ∧ p < g.lim.toNat * 256)
    else decide (Nat.land p (g.lim.toNat * 256) = g.base.toNat * 256) := by
  rw [regionMatches, Bool.decide_and]

theorem dataRegion_eq (s : State) (p : Nat) : s.dataRegion p =
    if p < 2 ^ s.cfg.daddrWidth then
      s.dregions.find? (fun g =>
        if s.cfg.mpuUseLimit then decide (g.base.toNat * 256 ≤ p ∧ p < g.lim.toNat * 256)
        else decide (Nat.land p (g.lim.toNat * 256) = g.base.toNat * 256))
    else none := by
  simp only [State.dataRegion, inWidth, decide_eq_true_eq, regionMatches_eq]

theorem mpuData_none (hon : s.mpuOn = true) (ha : ∀ g ∈ s.dregions, regionMisaligned s.cfg g = false)
    (hg : s.dataRegion p = none) : mpuData va p kind s = .stop (.next (s.take (.mpuData va))) := by
  unfold State.dataRegion at hg
  simp only [mpuData, hon, if_true, decidingRegion_eq_find? _ _ ha]
  split at hg
  · next hw =>
    rw [if_pos hw, hg]
    rfl
  · next hw =>
    rw [if_neg hw]
    rfl

/-- What the check answers by the permission that the deciding region grants, none where PERM is reserved. -/
def permAnswer (va : Word) (s : State) (mt : BitVec 2) : Option Bool → Flow (Option (BitVec 2))
  | none => .stop (.fault .reservedMpuPermission)
  | some true => .ok (some mt) s
  | some false => .stop (.next (s.take (.mpuData va)))

theorem mpuData_some (hon : s.mpuOn = true) (ha : ∀ g ∈ s.dregions, regionMisaligned s.cfg g = false)
    (hg : s.dataRegion p = some g) :
    mpuData va p kind s = permAnswer va s g.mt (permData s.cfg kind g.perm (stU s.status)) := by
  unfold State.dataRegion at hg
  split at hg
  · next hw =>
    simp only [mpuData, hon, hw, if_true, decidingRegion_eq_find? _ _ ha, hg]
    rcases permData s.cfg kind g.perm (stU s.status) with _ | _ | _ <;> rfl
  · cases hg

/-! ### The permissions (21_mmu_mpu.md R175, R176) -/

/-- The values of PERM of a data region that let a mode read. -/
def readPerms (user : Bool) : List (BitVec 3) := if user then [2#3, 5#3, 6#3] else [1#3, 2#3, 4#3, 5#3, 6#3]

/-- The values of PERM of a data region that let a mode write. -/
def writePerms (user : Bool) : List (BitVec 3) := if user then [6#3] else [4#3, 5#3, 6#3]

theorem permRead_eq : ∀ (perm : BitVec 3) (user : Bool), perm ∈ [0#3, 1#3, 2#3, 4#3, 5#3, 6#3] →
    permRead perm user = some (decide (perm ∈ readPerms user)) := by decide

theorem permWrite_eq : ∀ (perm : BitVec 3) (user : Bool), perm ∈ [0#3, 1#3, 2#3, 4#3, 5#3, 6#3] →
    permWrite perm user = some (decide (perm ∈ writePerms user)) := by decide

/-- What `flushda` and `initda` need is what MPU_CACHEOP_PERM names (D13). -/
theorem permData_cacheOp (c : Config) {perm : BitVec 3} (user : Bool) (hk : kind = .flushda ∨ kind = .initda)
    (hp : perm ∈ [0#3, 1#3, 2#3, 4#3, 5#3, 6#3]) : permData c kind perm user =
      some (decide (c.mpuCacheOpPerm = .none ∨ (c.mpuCacheOpPerm = .read ∧ perm ∈ readPerms user)
        ∨ (c.mpuCacheOpPerm = .write ∧ perm ∈ writePerms user))) := by
  have hr := permRead_eq perm user hp
  have hw := permWrite_eq perm user hp
  rcases hk with rfl | rfl <;> cases hc : c.mpuCacheOpPerm <;> simp [permData, hc, hr, hw]

theorem permData_reserved (c : Config) (kind : AccessKind) {perm : BitVec 3} (user : Bool) (hp : perm = 3#3 ∨ perm = 7#3) :
    permData c kind perm user = none := by
  have hr : permRead perm user = none := by rcases hp with rfl | rfl <;> rfl
  have hw : permWrite perm user = none := by rcases hp with rfl | rfl <;> rfl
  unfold permData
  cases kind <;> cases c.mpuCacheOpPerm <;> simp [hr, hw]

/-! ### The translation -/

/-- A translation that the MPU lets through (21_mmu_mpu.md R176, 20_memory.md R121, R122, R124). -/
theorem translateData_granted {mt : BitVec 2} (hm : s.cfg.mmu = false)
    (h : mpuData va (flatPhysical s.cfg va) kind s = .ok (some mt) s) : translateData va kind s =
      .ok (flatPhysical s.cfg va, flatCacheable s va (flatPhysical s.cfg va) (some mt)) (if mt = 3#2 then s.drawn else s) := by
  simp [translateData, hm, h, Flow.andThen]

theorem translateData_mpu_stop {r : Result} (hm : s.cfg.mmu = false) (h : mpuData va (flatPhysical s.cfg va) kind s = .stop r) :
    translateData va kind s = .stop r := by
  simp [translateData, hm, h, Flow.andThen]

theorem flatCacheable_eq_false {mt : BitVec 2}
    (h : (s.cfg.bypass31 && bit va 31) = true ∨ inPeriph s.cfg p = true ∨ mt = 0#2 ∨ mt = 2#2) :
    flatCacheable s va p (some mt) = false := by
  unfold flatCacheable
  rcases h with h | h | rfl | rfl
  · rw [h, Bool.not_true, Bool.false_and, Bool.false_and]
  · rw [h, Bool.not_true, Bool.and_false, Bool.false_and]
  · exact Bool.and_false _
  · exact Bool.and_false _

theorem flatCacheable_eq_true (hb : (s.cfg.bypass31 && bit va 31) = false) (hp : inPeriph s.cfg p = false) :
    flatCacheable s va p (some 1#2) = true := by
  unfold flatCacheable
  rw [hb, hp]
  rfl

/-- Settles O17: the deciding region, the permission that its PERM grants, and the cacheability of what is granted. -/
theorem mpuDataCheck : Obligations.MpuDataCheck := by
  intro s va kind hm hon ha p violates user grants readable writable
  have granted {g : MpuRegion} (h : mpuData va p kind s = .ok (some g.mt) s) : grants g :=
    ⟨_, translateData_granted hm h, flatCacheable_eq_false, fun hb hp hmt => by rw [hmt]; exact flatCacheable_eq_true hb hp⟩
  split
  · next hg => exact translateData_mpu_stop hm (mpuData_none hon ha ((dataRegion_eq s p).trans hg))
  · next g hg =>
    have answer : mpuData va p kind s = permAnswer va s g.mt (permData s.cfg kind g.perm user) :=
      mpuData_some hon ha ((dataRegion_eq s p).trans hg)
    have decides {P : Prop} [Decidable P] (h : permData s.cfg kind g.perm user = some (decide P)) : if P then grants g else violates := by
      rw [h] at answer
      split
      · next hP => exact granted (by rw [answer, decide_eq_true hP]; rfl)
      · next hP => exact translateData_mpu_stop hm (by rw [answer, decide_eq_false hP]; rfl)
    refine ⟨fun hp => ⟨fun hk => ?_, fun hk => ?_, fun hk => decides (permData_cacheOp s.cfg user hk hp)⟩, fun hp => ?_⟩
    · subst hk
      exact decides (permRead_eq g.perm user hp)
    · subst hk
      exact decides (permWrite_eq g.perm user hp)
    · rw [permData_reserved s.cfg kind user hp] at answer
      exact translateData_mpu_stop hm answer

end Sys2Proof.Machine

/-! ## Words put together from fields

A word written as a concatenation of its fields is the same as the fields put in place one by one, which is how the model builds words. -/

namespace Sys2Proof

theorem place_append {j k : Nat} (x : BitVec j) (y : BitVec k) (lo : Nat) :
    place (x ++ y) lo = place x (lo + k) ||| place y lo := by
  apply BitVec.eq_of_getLsbD_eq
  intro i hi
  simp only [BitVec.getLsbD_or, getLsbD_place, BitVec.getLsbD_append]
  by_cases hk : i - lo < k
  · have hx : ¬ lo + k ≤ i ∨ ¬ lo ≤ i := by omega
    rcases hx with hx | hx
    · simp [hk, hx]
    · have hx' : ¬ lo + k ≤ i := by omega
      simp [hx, hx']
  · have hy : y.getLsbD (i - lo) = false := BitVec.getLsbD_of_ge y _ (by omega)
    have hlo : lo + k ≤ i ↔ lo ≤ i := by omega
    simp [hk, hy, hlo, Nat.sub_add_eq]

@[simp] theorem place_word (w : Word) : place w 0 = w := by simp [place]

@[simp] theorem place_zero (k lo : Nat) : place 0#k lo = 0#32 := by simp [place]

/-- The low bits of a word. -/
theorem and_lowMask_eq_place (w : Word) {k : Nat} (m : Word) (hm : m.toNat = 2 ^ k - 1) :
    w &&& m = place (field w 0 k) 0 := by
  apply BitVec.eq_of_getLsbD_eq
  intro i hi
  have hbit : m.getLsbD i = decide (i < k) := by
    rw [BitVec.getLsbD, hm, Nat.testBit_two_pow_sub_one]
  rw [BitVec.getLsbD_and, hbit, getLsbD_place, getLsbD_field]
  simp [hi, Bool.and_comm]

/-- A field replaced: what stands above it, the new field, what stands below. -/
theorem setField_eq_place {lo k : Nat} (w : Word) (v : BitVec k) (n : Nat) (h : n + k + lo = 32) :
    setField w lo k v = place (field w (lo + k) n) (lo + k) ||| place v lo ||| place (field w 0 lo) 0 := by
  apply BitVec.eq_of_getLsbD_eq
  intro i hi
  rw [getLsbD_setField]
  simp only [BitVec.getLsbD_or, getLsbD_place, getLsbD_field, hi, decide_true, Bool.true_and, Nat.zero_le, Nat.zero_add, Nat.sub_zero]
  by_cases hlo : i < lo
  · simp [hlo, Nat.not_le.2 hlo, Nat.not_le.2 (Nat.lt_add_right k hlo)]
  · have hv : lo + k ≤ i → v.getLsbD (i - lo) = false := fun hk => BitVec.getLsbD_of_ge v _ (by omega)
    by_cases hk : i < lo + k
    · simp [hlo, Nat.not_lt.1 hlo, hk, Nat.not_le.2 hk]
    · have hn : i - (lo + k) < n := by omega
      simp [hlo, hk, Nat.not_lt.1 hk, hn, hv (Nat.not_lt.1 hk)]

/-- A field replaced in a word that is built from it. -/
theorem setField_or_place {lo k : Nat} {x : Word} (p v : BitVec k) (h : field x lo k = 0#k) :
    setField (x ||| place p lo) lo k v = x ||| place v lo := by
  apply BitVec.eq_of_getLsbD_eq
  intro i hi
  simp only [getLsbD_setField, BitVec.getLsbD_or, getLsbD_place, hi, decide_true, Bool.true_and, and_true]
  by_cases hlo : lo ≤ i
  · by_cases hk : i < lo + k
    · have hx : x.getLsbD i = false := by
        have hbit := congrArg (BitVec.getLsbD · (i - lo)) h
        simp only [getLsbD_field, Nat.add_sub_cancel' hlo, Nat.sub_lt_left_of_lt_add hlo hk, decide_true, Bool.true_and,
          BitVec.getLsbD_zero] at hbit
        exact hbit
      simp [hlo, hk, hx]
    · have out (u : BitVec k) : u.getLsbD (i - lo) = false := BitVec.getLsbD_of_ge u _ (by omega)
      simp [hk, out]
  · simp [hlo]

end Sys2Proof

/-! ## `wrctl tlbacc` and `wrctl tlbmisc` (O45)

A write of a field keeps as many of its bits as the configuration has; the rest is the order of the fields in their words. -/

namespace Sys2Proof

theorem clog_two_eq {n k : Nat} (hlo : 2 ^ k < n) (hhi : n ≤ 2 ^ (k + 1)) : Nat.clog 2 n = k + 1 :=
  le_antisymm ((Nat.clog_le_iff_le_pow (by decide)).2 hhi)
    (Nat.succ_le_of_lt (Nat.lt_of_not_le fun h => absurd ((Nat.clog_le_iff_le_pow (by decide)).1 h) (Nat.not_le.2 hlo)))

/-- As many low bits of a field as are implemented. -/
theorem and_ofNat_mask {k : Nat} (x : BitVec k) (m : Nat) :
    x &&& BitVec.ofNat k (2 ^ m - 1) = BitVec.ofNat k (x.toNat % 2 ^ m) := by
  apply BitVec.eq_of_toNat_eq
  rw [BitVec.toNat_and, BitVec.toNat_ofNat, BitVec.toNat_ofNat]
  apply Nat.eq_of_testBit_eq
  intro i
  simp only [Nat.testBit_and, Nat.testBit_mod_two_pow, Nat.testBit_two_pow_sub_one]
  by_cases hi : i < k <;> simp [hi, Bool.and_comm]

theorem Config.wf_tlb {c : Config} (h : c.wf = true) : 1 ≤ c.tlbWays ∧ c.tlbWays ≤ 16 ∧ c.pidBits ≤ 14 := by
  unfold Config.wf at h
  simp only [Bool.and_eq_true, decide_eq_true_eq] at h
  tauto

namespace Machine

variable {s : State} {a : RegIdx} {v : Word} {e : TlbEntry}

/-! ### The instruction -/

theorem exec_wrctl_eq {n : BitVec 5} {u : State} (hU : stU s.status = false) (h : s.writeCtl n (s.reg a) = .ok () u) :
    exec (.wrctl n a) s = .next (u.flushedBy n).advance := by
  show supervisorOnly s _ = _
  rw [supervisorOnly, hU, if_neg Bool.false_ne_true, h]
  rfl

theorem exec_wrctl_tlbacc (hU : stU s.status = false) (hm : s.cfg.mmu = true) :
    exec (.wrctl 9#5 a) s = .next (s.writeTlbacc (s.reg a)).pipelineFlushed.advance := by
  have write : s.writeCtl 9#5 (s.reg a) = .ok () (s.writeTlbacc (s.reg a)) := by
    simp only [State.writeCtl, writeWhen, hm, if_true]
  rw [exec_wrctl_eq hU write, State.flushedBy, if_neg (by decide)]

theorem exec_wrctl_tlbmisc (hU : stU s.status = false) (hm : s.cfg.mmu = true) :
    exec (.wrctl 10#5 a) s = .next (s.writeTlbmisc (s.reg a)).pipelineFlushed.advance := by
  have write : s.writeCtl 10#5 (s.reg a) = .ok () (s.writeTlbmisc (s.reg a)) := by
    simp only [State.writeCtl, writeWhen, hm, if_true]
  rw [exec_wrctl_eq hU write, State.flushedBy, if_neg (by decide)]

/-! ### The words (10_state.md R49 to R51) -/

theorem tlbacc_fields (v : Word) : v &&& 0x01FFFFFF#32 = 0#7 ++ v.extractLsb' 0 25 := by
  rw [and_lowMask_eq_place v (k := 25) _ rfl, ← place_word (0#7 ++ v.extractLsb' 0 25), place_append]
  simp [field]

theorem tlbaccOf_fields (e : TlbEntry) : tlbaccOf e =
    0#7 ++ BitVec.ofBool e.c ++ BitVec.ofBool e.r ++ BitVec.ofBool e.w ++ BitVec.ofBool e.x ++ BitVec.ofBool e.g ++ e.pfn := by
  refine Eq.trans ?_ (place_word _)
  simp only [place_append, place_zero, BitVec.zero_or]
  rfl

/-- `tlbmisc` with the field WAY replaced. -/
theorem setField_way (w : Word) (way : BitVec 4) :
    setField w 20 4 way = w.extractLsb' 24 8 ++ way ++ w.extractLsb' 0 20 := by
  refine (setField_eq_place w way 8 rfl).trans (Eq.trans ?_ (place_word _))
  rw [place_append, place_append]
  rfl

/-- `pteaddr` with the field VPN replaced. -/
theorem setField_vpn (w : Word) (vpn : BitVec 20) :
    setField w 2 20 vpn = w.extractLsb' 22 10 ++ vpn ++ w.extractLsb' 0 2 := by
  refine (setField_eq_place w vpn 10 rfl).trans (Eq.trans ?_ (place_word _))
  rw [place_append, place_append]
  rfl

theorem wayMask_eq {c : Config} (h : c.tlbWays ≤ 16) : wayMask c = BitVec.ofNat 4 (2 ^ Nat.clog 2 c.tlbWays - 1) := by
  unfold wayMask
  split
  · next h1 => rw [Nat.clog_of_right_le_one h1]; rfl
  · split
    · rw [clog_two_eq (k := 0) (by omega) (by omega)]; rfl
    · split
      · rw [clog_two_eq (k := 1) (by omega) (by omega)]; rfl
      · split
        · rw [clog_two_eq (k := 2) (by omega) (by omega)]; rfl
        · rw [clog_two_eq (k := 3) (by omega) (by omega)]; rfl

/-- `tlbmisc` of a core without ECC, whose software-written fields come from `v`, with the PID `pid`. -/
def tlbmiscFields (s : State) (v : Word) (pid : BitVec 14) : Word :=
  0#8 ++ BitVec.ofNat 4 ((v.extractLsb' 20 4).toNat % 2 ^ Nat.clog 2 s.cfg.tlbWays) ++ 0#1 ++ v.extractLsb' 18 1 ++ pid
    ++ s.tlbmisc.extractLsb' 0 4

theorem tlbmiscFields_eq_place (s : State) (v : Word) (pid : BitVec 14) : tlbmiscFields s v pid =
    place (BitVec.ofNat 4 ((v.extractLsb' 20 4).toNat % 2 ^ Nat.clog 2 s.cfg.tlbWays)) 20 ||| place (v.extractLsb' 18 1) 18
      ||| place (s.tlbmisc.extractLsb' 0 4) 0 ||| place pid 4 := by
  refine (place_word (tlbmiscFields s v pid)).symm.trans ?_
  rw [tlbmiscFields]
  simp only [place_append, place_zero, BitVec.zero_or, BitVec.or_zero]
  rw [BitVec.or_assoc, BitVec.or_comm (place pid _), ← BitVec.or_assoc]

/-- The PID of `tlbmisc` replaced. -/
theorem setField_tlbmiscFields (s : State) (v : Word) (pid pid' : BitVec 14) :
    setField (tlbmiscFields s v pid) 4 14 pid' = tlbmiscFields s v pid' := by
  rw [tlbmiscFields_eq_place, tlbmiscFields_eq_place]
  refine setField_or_place pid pid' ?_
  simp (disch := omega) only [field_or, field_place_below, field_place_above, BitVec.or_zero]

theorem field_tlbmiscFields_way (s : State) (v : Word) (pid : BitVec 14) :
    (field (tlbmiscFields s v pid) 20 4).toNat = (v.extractLsb' 20 4).toNat % 2 ^ Nat.clog 2 s.cfg.tlbWays := by
  rw [tlbmiscFields_eq_place]
  simp (disch := omega) only [field_or, field_place_same, field_place_below, BitVec.or_zero]
  rw [BitVec.toNat_ofNat, Nat.mod_eq_of_lt (lt_of_le_of_lt (Nat.mod_le _ _) (BitVec.isLt _))]

theorem field_tlbmiscFields_pid (s : State) (v : Word) (pid : BitVec 14) : field (tlbmiscFields s v pid) 4 14 = pid := by
  rw [← setField_tlbmiscFields s v pid pid, field_setField_same _ _ _ (by decide)]

theorem ofBool_bit (w : Word) (n : Nat) : BitVec.ofBool (bit w n) = w.extractLsb' n 1 := by
  apply BitVec.eq_of_getLsbD_eq
  intro i hi
  obtain rfl : i = 0 := by omega
  simp [bit]

theorem tlbmiscWritten_fields (he : s.cfg.ecc = false) (hw : s.cfg.tlbWays ≤ 16) (v : Word) :
    s.tlbmiscWritten v = tlbmiscFields s v (BitVec.ofNat 14 ((v.extractLsb' 4 14).toNat % 2 ^ s.cfg.pidBits)) := by
  rw [tlbmiscFields_eq_place, State.tlbmiscWritten, he, wayMask_eq hw, pidMask, and_ofNat_mask, and_ofNat_mask,
    and_lowMask_eq_place _ (k := 4) _ rfl, flagMask, flagMask, ofBool_bit, BitVec.or_assoc, BitVec.or_comm (place _ 4), ← BitVec.or_assoc]
  simp [field]

/-! ### The TLB write (21_mmu_mpu.md R160) -/

theorem writeTlbacc_plain (hwe : bit s.tlbmisc 18 = false) :
    s.writeTlbacc v = { s with tlbacc := 0#7 ++ v.extractLsb' 0 25 } := by
  simp only [State.writeTlbacc, hwe, Bool.false_eq_true, if_false, tlbacc_fields]

/-- The entry that a write of `v` makes without ECC. -/
theorem tlbEntryOf_noEcc (v : Word) (he : s.cfg.ecc = false) : s.tlbEntryOf v =
    { tag := s.pteVpn.toNat / s.cfg.tlbLines, pid := s.tlbmisc.extractLsb' 4 14, g := bit v 20, pfn := v.extractLsb' 0 20,
      c := bit v 24, r := bit v 23, w := bit v 22, x := bit v 21, ecc := .none } := by
  simp only [State.tlbEntryOf, s.injectedBits_noEcc _ _ he]
  rfl

theorem writeTlbacc_entry (he : s.cfg.ecc = false) (hwe : bit s.tlbmisc 18 = true) (hw : s.tlbWay < s.cfg.tlbWays) :
    s.writeTlbacc v = { s with
      tlbacc := 0#7 ++ v.extractLsb' 0 25,
      tlb := s.tlb.set (tlbIndex s.cfg (tlbLine s.cfg s.pteVpn) s.tlbWay) (s.tlbEntryOf v),
      tlbmisc := s.tlbmisc.extractLsb' 24 8 ++ BitVec.ofNat 4 ((s.tlbWay + 1) % s.cfg.tlbWays) ++ s.tlbmisc.extractLsb' 0 20 } := by
  have done : State.injectionDone { s with tlbacc := v &&& 0x01FFFFFF#32 } injTlb = _ := State.injectionDone_noEcc _ _ he
  simp only [State.writeTlbacc, hwe, if_true, hw, done]
  rw [setField_way, tlbacc_fields]

theorem writeTlbacc_noEntry (hwe : bit s.tlbmisc 18 = true) (hw : s.cfg.tlbWays ≤ s.tlbWay) :
    s.writeTlbacc v = { s with
      tlbacc := 0#7 ++ v.extractLsb' 0 25,
      tlbmisc := s.tlbmisc.extractLsb' 24 8 ++ BitVec.ofNat 4 ((s.tlbWay + 1) % s.cfg.tlbWays) ++ s.tlbmisc.extractLsb' 0 20 } := by
  simp only [State.writeTlbacc, hwe, if_true, Nat.not_lt.2 hw, if_false, setField_way, tlbacc_fields]

/-- A way that is one of the configuration's names an entry of the table. -/
theorem tlbIndex_lt {c : Config} (h1 : 1 ≤ c.tlbWays) (hle : c.tlbWays ≤ c.tlbEntries) (vpn : BitVec 20) {way : Nat}
    (hw : way < c.tlbWays) : tlbIndex c (tlbLine c vpn) way < c.tlbEntries := by
  have hline : tlbLine c vpn < c.tlbLines := Nat.mod_lt _ (Nat.div_pos hle h1)
  calc tlbIndex c (tlbLine c vpn) way < (tlbLine c vpn + 1) * c.tlbWays := by rw [tlbIndex, Nat.succ_mul]; omega
    _ ≤ c.tlbLines * c.tlbWays := Nat.mul_le_mul_right _ hline
    _ ≤ c.tlbEntries := Nat.div_mul_le_self _ _

/-! ### The TLB read (21_mmu_mpu.md R161) -/

theorem readTlb_entry (he : s.cfg.ecc = false) (hw : s.tlbWay < s.cfg.tlbWays)
    (hx : s.tlb[tlbIndex s.cfg (tlbLine s.cfg s.pteVpn) s.tlbWay]? = some e) : s.readTlb = { s with
      pteaddr := setField s.pteaddr 2 20 (s.vpnFromTag e.tag), tlbmisc := setField s.tlbmisc 4 14 e.pid, tlbacc := tlbaccOf e } := by
  simp only [State.readTlb, hw, if_true, List.getD_eq_getElem?_getD, hx, Option.getD_some, s.eccOn_noEcc he, Bool.not_false, Bool.true_or]

/-- A WAY that names no entry reads free values (log 52). -/
theorem readTlb_noEntry (hw : s.cfg.tlbWays ≤ s.tlbWay) : ∃ vpn pid acc, s.readTlb = { s with
      pteaddr := setField s.pteaddr 2 20 vpn, tlbmisc := setField s.tlbmisc 4 14 pid, tlbacc := acc &&& 0x01FFFFFF#32,
      draws := s.draws + 1 } := by
  unfold State.readTlb
  rw [if_neg (Nat.not_lt.2 hw)]
  exact ⟨_, _, _, rfl⟩

/-- `wrctl tlbmisc` without RD. -/
theorem writeTlbmisc_plain (he : s.cfg.ecc = false) (hw : s.cfg.tlbWays ≤ 16) (hrd : bit v 19 = false) : s.writeTlbmisc v =
    { s with tlbmisc := tlbmiscFields s v (BitVec.ofNat 14 ((v.extractLsb' 4 14).toNat % 2 ^ s.cfg.pidBits)) } := by
  simp only [State.writeTlbmisc, hrd, Bool.false_eq_true, if_false, tlbmiscWritten_fields he hw]

/-- The way that a read selects is the one that the same `wrctl` writes. -/
theorem tlbWay_tlbmiscWritten (he : s.cfg.ecc = false) (h16 : s.cfg.tlbWays ≤ 16) (v : Word) :
    State.tlbWay { s with tlbmisc := s.tlbmiscWritten v } = (v.extractLsb' 20 4).toNat % 2 ^ Nat.clog 2 s.cfg.tlbWays := by
  rw [State.tlbWay, tlbmiscWritten_fields he h16, field_tlbmiscFields_way]

theorem writeTlbmisc_read (hrd : bit v 19 = true) : s.writeTlbmisc v = { s with tlbmisc := s.tlbmiscWritten v }.readTlb :=
  if_pos hrd

theorem writeTlbmisc_entry (he : s.cfg.ecc = false) (h16 : s.cfg.tlbWays ≤ 16) (hrd : bit v 19 = true)
    (hw : (v.extractLsb' 20 4).toNat % 2 ^ Nat.clog 2 s.cfg.tlbWays < s.cfg.tlbWays)
    (hx : s.tlb[tlbIndex s.cfg (tlbLine s.cfg s.pteVpn) ((v.extractLsb' 20 4).toNat % 2 ^ Nat.clog 2 s.cfg.tlbWays)]? = some e) :
    s.writeTlbmisc v = { s with
      pteaddr := s.pteaddr.extractLsb' 22 10 ++ s.vpnFromTag e.tag ++ s.pteaddr.extractLsb' 0 2,
      tlbmisc := tlbmiscFields s v e.pid, tlbacc := tlbaccOf e } := by
  rw [← tlbWay_tlbmiscWritten he h16] at hw hx
  rw [writeTlbmisc_read hrd, readTlb_entry (s := { s with tlbmisc := s.tlbmiscWritten v }) he hw hx]
  simp only [tlbmiscWritten_fields he h16, setField_tlbmiscFields, setField_vpn]
  rfl

theorem writeTlbmisc_noEntry (he : s.cfg.ecc = false) (h16 : s.cfg.tlbWays ≤ 16) (hrd : bit v 19 = true)
    (hw : s.cfg.tlbWays ≤ (v.extractLsb' 20 4).toNat % 2 ^ Nat.clog 2 s.cfg.tlbWays) :
    ∃ vpn pid acc, s.writeTlbmisc v = { s with
      pteaddr := setField s.pteaddr 2 20 vpn, tlbmisc := tlbmiscFields s v pid, tlbacc := acc &&& 0x01FFFFFF#32,
      draws := s.draws + 1 } := by
  rw [← tlbWay_tlbmiscWritten he h16] at hw
  obtain ⟨vpn, pid, acc, read⟩ := readTlb_noEntry (s := { s with tlbmisc := s.tlbmiscWritten v }) hw
  refine ⟨vpn, pid, acc, ?_⟩
  rw [writeTlbmisc_read hrd, read]
  simp only [tlbmiscWritten_fields he h16, setField_tlbmiscFields]

/-- Settles O45: the instruction by its register, the write by WE and WAY, the read by RD and the way that it selects. -/
theorem tlbWriteAndRead : Obligations.TlbWriteAndRead := by
  intro s a hU hm he hwf hlen hle v ways lines vpn way acc misc newWay nextWay
  obtain ⟨h1, h16, -⟩ := Config.wf_tlb hwf
  have write : exec (.wrctl 9#5 a) s = .next (s.writeTlbacc v).pipelineFlushed.advance := exec_wrctl_tlbacc hU hm
  have read : exec (.wrctl 10#5 a) s = .next (s.writeTlbmisc v).pipelineFlushed.advance := exec_wrctl_tlbmisc hU hm
  refine ⟨fun hwe => ?_, fun hwe hw => ?_, fun hwe hw => ?_, fun hrd => ?_, fun hrd hw e hx => ?_, fun hrd hw => ?_⟩
  · rw [write, writeTlbacc_plain hwe]
    rfl
  · rw [writeTlbacc_entry he hwe hw] at write
    refine ⟨_, write, rfl, fun k => ?_⟩
    show (s.tlb.set (vpn % lines * ways + way) (s.tlbEntryOf v))[k]? = _
    have hlt : vpn % lines * ways + way < s.tlb.length := hlen ▸ tlbIndex_lt h1 hle s.pteVpn hw
    split
    · next hk =>
      subst hk
      rw [List.getElem?_set_self hlt, tlbEntryOf_noEcc v he]
      rfl
    · next hk => exact List.getElem?_set_ne (Ne.symm hk)
  · rw [write, writeTlbacc_noEntry hwe hw]
    rfl
  · rw [read, writeTlbmisc_plain he h16 hrd]
    rfl
  · rw [read, writeTlbmisc_entry he h16 hrd hw hx, tlbaccOf_fields]
    rfl
  · obtain ⟨vpn, pid, acc, free⟩ := writeTlbmisc_noEntry he h16 hrd hw
    rw [free] at read
    refine ⟨_, read, ?_⟩
    show _ = ({ s.pipelineFlushed with
      pc := s.pc + 4#32, tlbmisc := tlbmiscFields s v (field (tlbmiscFields s v pid) 4 14),
      pteaddr := s.pteaddr.extractLsb' 22 10 ++ field (setField s.pteaddr 2 20 vpn) 2 20 ++ s.pteaddr.extractLsb' 0 2,
      tlbacc := 0#7 ++ (acc &&& 0x01FFFFFF#32).extractLsb' 0 25, draws := s.draws + 1 } : State)
    rw [field_tlbmiscFields_pid, field_setField_same _ _ _ (by decide), ← setField_vpn, ← tlbacc_fields, BitVec.and_assoc,
      BitVec.and_self]
    rfl

end Machine

end Sys2Proof

/-! ## `wrctl mpubase` and `wrctl mpuacc` (O46)

The bits that a write keeps, said of each bit of the word; and the four values of RD and WR. -/

namespace Sys2Proof

theorem bit_or (x y : Word) (n : Nat) : bit (x ||| y) n = (bit x n || bit y n) := BitVec.getLsbD_or

theorem bit_and (x y : Word) (n : Nat) : bit (x &&& y) n = (bit x n && bit y n) := BitVec.getLsbD_and

theorem bit_place {k : Nat} (f : BitVec k) (lo : Nat) {n : Nat} (hn : n < 32) :
    bit (place f lo) n = (decide (lo ≤ n) && f.getLsbD (n - lo)) := by
  rw [bit, getLsbD_place, decide_eq_true hn, Bool.true_and]

theorem Config.wf_regions {c : Config} (h : c.wf = true) :
    (2 ≤ c.mpuNumIRegions ∧ c.mpuNumIRegions ≤ 32) ∧ 2 ≤ c.mpuNumDRegions ∧ c.mpuNumDRegions ≤ 32 := by
  unfold Config.wf at h
  simp only [Bool.and_eq_true, decide_eq_true_eq] at h
  tauto

namespace Machine

variable {s : State} {a : RegIdx} {v : Word} {g : MpuRegion} {n : Nat}

/-! ### The implemented bits (10_state.md R62 to R67) -/

theorem bit_lowMask (m : Nat) (hn : n < 32) : bit (lowMask m) n = decide (n < m) := by
  rw [bit, lowMask, BitVec.getLsbD_ofNat, Nat.testBit_two_pow_sub_one, decide_eq_true hn, Bool.true_and]

/-- The lowest implemented bit of BASE, MASK and LIMIT (21_mmu_mpu.md R178). -/
def regionLow (minSize : Nat) : Nat := max 8 (Nat.log2 minSize)

theorem eight_le_regionLow (minSize : Nat) : 8 ≤ regionLow minSize := Nat.le_max_left _ _

theorem bit_regionBits (minSize top : Nat) (hn : n < 32) :
    bit (regionBits minSize top) n = (decide (regionLow minSize ≤ n) && decide (n < top)) := by
  have low : bit (~~~lowMask (regionLow minSize)) n = decide (regionLow minSize ≤ n) := by
    rw [bit, BitVec.getLsbD_not, decide_eq_true hn, Bool.true_and, ← bit, bit_lowMask _ hn, ← decide_not, decide_eq_decide]
    exact Nat.not_lt
  rw [regionBits, bit_and, bit_lowMask _ hn, ← regionLow, low, Bool.and_comm]

/-- No field that ends below bit 8 meets BASE, MASK or LIMIT. -/
theorem field_regionBits (v : Word) (minSize top : Nat) {lo k : Nat} (h : lo + k ≤ 8) :
    field (v &&& regionBits minSize top) lo k = 0#k := by
  apply BitVec.eq_of_getLsbD_eq
  intro i hi
  have hlow := eight_le_regionLow minSize
  have hbit : bit (regionBits minSize top) (lo + i) = false := by
    rw [bit_regionBits _ _ (by omega), decide_eq_false (by omega), Bool.false_and]
  rw [bit] at hbit
  rw [getLsbD_field, BitVec.getLsbD_and, hbit, Bool.and_false, Bool.and_false, BitVec.getLsbD_zero]

theorem indexMask_eq (h2 : 2 ≤ n) (h32 : n ≤ 32) : indexMask n = BitVec.ofNat 5 (2 ^ Nat.clog 2 n - 1) := by
  unfold indexMask
  split
  · rw [clog_two_eq (k := 0) (by omega) (by omega)]; rfl
  · split
    · rw [clog_two_eq (k := 1) (by omega) (by omega)]; rfl
    · split
      · rw [clog_two_eq (k := 2) (by omega) (by omega)]; rfl
      · split
        · rw [clog_two_eq (k := 3) (by omega) (by omega)]; rfl
        · rw [clog_two_eq (k := 4) (by omega) (by omega)]; rfl

/-! ### `mpubase` (10_state.md R62) -/

/-- `mpubase` as it is written, for both kinds of region at once. -/
theorem mpubaseWritten_eq (c : Config) (v : Word) : mpubaseWritten c v =
    (v &&& regionBits (if bit v 0 then c.mpuMinDRegion else c.mpuMinIRegion) (if bit v 0 then c.daddrWidth else c.iaddrWidth))
      ||| place (field v 1 5 &&& indexMask (if bit v 0 then c.mpuNumDRegions else c.mpuNumIRegions)) 1
      ||| flagMask (bit v 0) 0 := by
  unfold mpubaseWritten
  cases bit v 0
  · exact (BitVec.or_zero).symm
  · rfl

theorem bit_mpubaseWritten (c : Config) (v : Word) (hn : n < 32) (h0 : n = 0 ∨ 6 ≤ n) : bit (mpubaseWritten c v) n =
    ((bit v n && (decide (regionLow (if bit v 0 then c.mpuMinDRegion else c.mpuMinIRegion) ≤ n)
      && decide (n < if bit v 0 then c.daddrWidth else c.iaddrWidth))) || (bit v 0 && decide (n = 0))) := by
  have index (f : BitVec 5) : bit (place f 1) n = false := by
    rw [bit_place _ _ hn]
    rcases h0 with rfl | h6
    · rfl
    · rw [BitVec.getLsbD_of_ge f _ (by omega), Bool.and_false]
  rw [mpubaseWritten_eq, bit_or, bit_or, bit_and, bit_regionBits _ _ hn, index, bit_flagMask _ _ _ (by decide), Bool.or_false]

theorem field_mpubaseWritten_index {c : Config} (v : Word) (h : c.wf = true) : (field (mpubaseWritten c v) 1 5).toNat =
    (v.extractLsb' 1 5).toNat % 2 ^ Nat.clog 2 (if bit v 0 then c.mpuNumDRegions else c.mpuNumIRegions) := by
  have number : indexMask (if bit v 0 then c.mpuNumDRegions else c.mpuNumIRegions)
      = BitVec.ofNat 5 (2 ^ Nat.clog 2 (if bit v 0 then c.mpuNumDRegions else c.mpuNumIRegions) - 1) := by
    obtain ⟨⟨hi2, hi32⟩, hd2, hd32⟩ := Config.wf_regions h
    split
    · exact indexMask_eq hd2 hd32
    · exact indexMask_eq hi2 hi32
  rw [mpubaseWritten_eq, field_or, field_or, field_regionBits _ _ _ (by decide), field_place_same _ _ (by decide), flagMask,
    field_place_below _ _ _ _ (by decide), number, and_ofNat_mask, BitVec.zero_or, BitVec.or_zero, BitVec.toNat_ofNat]
  exact Nat.mod_eq_of_lt (lt_of_le_of_lt (Nat.mod_le _ _) (BitVec.isLt _))

/-- `mpubase` with the field BASE replaced. -/
theorem setField_base (w : Word) (base : BitVec 24) : setField w 8 24 base = base ++ w.extractLsb' 0 8 := by
  refine (setField_eq_place w base 0 rfl).trans (Eq.trans ?_ (place_word _))
  rw [place_append, BitVec.of_length_zero (x := field w _ 0), place_zero, BitVec.zero_or]
  rfl

/-! ### `mpuacc` (10_state.md R63 to R67) -/

theorem mpuaccOf_fields (g : MpuRegion) : mpuaccOf g = g.lim ++ 0#1 ++ g.mt ++ g.perm ++ 0#2 := by
  refine Eq.trans ?_ (place_word _)
  simp only [place_append, place_zero, BitVec.or_zero]
  rfl

theorem bit_mt_mask : ∀ n, n < 32 → bit 0x00000060#32 n = decide (5 ≤ n ∧ n < 7) := by decide

theorem bit_perm_mask : ∀ n, n < 32 → bit 0x0000001C#32 n = decide (2 ≤ n ∧ n < 5) := by decide

theorem bit_mpuaccWritten (c : Config) (d : Bool) (v : Word) (hn : n < 32) : bit (mpuaccWritten c d v) n =
    if n < 2 ∨ n = 7 then false else if n < 5 then bit v n else if n < 7 then d && bit v n
    else bit v n && decide (regionLow (if d then c.mpuMinDRegion else c.mpuMinIRegion) ≤ n)
      && decide (n < if c.mpuUseLimit then (if d then c.daddrWidth else c.iaddrWidth) + 1
        else if d then c.daddrWidth else c.iaddrWidth) := by
  have mt : bit (if d then v &&& 0x00000060#32 else 0#32) n = (d && (bit v n && decide (5 ≤ n ∧ n < 7))) := by
    cases d
    · exact BitVec.getLsbD_zero
    · exact (bit_and _ _ _).trans (by rw [bit_mt_mask n hn]; rfl)
  have hlow := eight_le_regionLow (if d then c.mpuMinDRegion else c.mpuMinIRegion)
  have top (m : Nat) : decide (n < min 32 m) = decide (n < m) := by
    rw [decide_eq_decide]
    omega
  simp only [mpuaccWritten, bit_or, bit_and, mt, bit_perm_mask n hn, bit_regionBits _ _ hn, top]
  rcases Nat.lt_or_ge n 8 with h8 | h8
  · have below : ¬ regionLow (if d then c.mpuMinDRegion else c.mpuMinIRegion) ≤ n := by omega
    rw [decide_eq_false below]
    clear hn hlow below
    interval_cases n <;> simp
  · have h2 : ¬ (n < 2 ∨ n = 7) := by omega
    have h5 : ¬ n < 5 := by omega
    have h7 : ¬ n < 7 := by omega
    rw [if_neg h2, if_neg h5, if_neg h7]
    simp [h5, h7, Bool.and_assoc]

/-! ### The instructions -/

theorem exec_wrctl_stop {k : BitVec 5} {r : Result} (hU : stU s.status = false) (h : s.writeCtl k (s.reg a) = .stop r) :
    exec (.wrctl k a) s = r := by
  show supervisorOnly s _ = _
  rw [supervisorOnly, hU, if_neg Bool.false_ne_true, h]
  rfl

theorem exec_wrctl_mpubase (hU : stU s.status = false) (hm : s.cfg.mpu = true) :
    exec (.wrctl 14#5 a) s = .next { s with pc := s.pc + 4#32, mpubase := mpubaseWritten s.cfg (s.reg a) } := by
  have write : s.writeCtl 14#5 (s.reg a) = .ok () { s with mpubase := mpubaseWritten s.cfg (s.reg a) } := by
    simp only [State.writeCtl, writeWhen, hm, if_true]
  rw [exec_wrctl_eq hU write]
  rfl

theorem writeCtl_mpuacc (hm : s.cfg.mpu = true) : s.writeCtl 15#5 v = s.writeMpuacc v := if_pos hm

theorem exec_wrctl_mpuacc {u : State} (hU : stU s.status = false) (hm : s.cfg.mpu = true)
    (h : s.writeMpuacc (s.reg a) = .ok () u) : exec (.wrctl 15#5 a) s = .next u.advance :=
  exec_wrctl_eq hU ((writeCtl_mpuacc hm).trans h)

theorem writeMpuacc_plain (hwr : bit v 0 = false) (hrd : bit v 1 = false) :
    s.writeMpuacc v = .ok () { s with mpuacc := mpuaccWritten s.cfg s.mpuD v } := by
  simp only [State.writeMpuacc, hwr, hrd, Bool.false_eq_true, if_false]

/-- The region that INDEX and D name is written (21_mmu_mpu.md R180). -/
theorem writeMpuacc_write (hwr : bit v 0 = true) (hrd : bit v 1 = false) :
    s.writeMpuacc v = .ok () { s with
      mpuacc := mpuaccWritten s.cfg s.mpuD v,
      iregions := if s.mpuD then s.iregions
        else s.iregions.set s.mpuIndex (regionOf s.mpubase (mpuaccWritten s.cfg s.mpuD v)),
      dregions := if s.mpuD then s.dregions.set s.mpuIndex (regionOf s.mpubase (mpuaccWritten s.cfg s.mpuD v))
        else s.dregions } := by
  have write : s.writeMpuacc v = .ok () (State.mpuRegionWrite { s with mpuacc := mpuaccWritten s.cfg s.mpuD v }) := by
    simp only [State.writeMpuacc, hwr, hrd, Bool.false_eq_true, if_false, if_true]
  have same : State.mpuD { s with mpuacc := mpuaccWritten s.cfg s.mpuD v } = s.mpuD := rfl
  rw [write, State.mpuRegionWrite, same]
  cases s.mpuD <;> rfl

theorem writeMpuacc_read (hwr : bit v 0 = false) (hrd : bit v 1 = true) : s.writeMpuacc v = .ok () s.mpuRegionRead := by
  simp only [State.writeMpuacc, hwr, hrd, Bool.false_eq_true, if_false, if_true]

theorem writeMpuacc_both (hwr : bit v 0 = true) (hrd : bit v 1 = true) :
    s.writeMpuacc v = .stop (.fault .mpuReadAndWrite) := by
  simp only [State.writeMpuacc, hwr, hrd, if_true]

theorem getElem?_regions (s : State) (k : Nat) :
    (if s.mpuD then s.dregions[k]? else s.iregions[k]?) = (if s.mpuD then s.dregions else s.iregions)[k]? := by
  cases s.mpuD <;> rfl

/-- The region that INDEX and D name is read (21_mmu_mpu.md R181). -/
theorem mpuRegionRead_some (h : (if s.mpuD then s.dregions else s.iregions)[s.mpuIndex]? = some g) :
    s.mpuRegionRead = { s with mpubase := g.base ++ s.mpubase.extractLsb' 0 8, mpuacc := g.lim ++ 0#1 ++ g.mt ++ g.perm ++ 0#2 } := by
  rw [State.mpuRegionRead, getElem?_regions, h, ← setField_base, ← mpuaccOf_fields]

/-- An INDEX that names no region reads free values (log 52). -/
theorem mpuRegionRead_none (h : (if s.mpuD then s.dregions else s.iregions)[s.mpuIndex]? = none) :
    ∃ base acc, s.mpuRegionRead = { s with mpubase := base, mpuacc := acc, draws := s.draws + 1 } := by
  rw [State.mpuRegionRead, getElem?_regions, h]
  exact ⟨_, _, rfl⟩

/-- Settles O46: the bits that a write keeps, and one case for each value of RD and WR. -/
theorem mpuRegionWriteAndRead : Obligations.MpuRegionWriteAndRead := by
  intro s a hU hm hwf v c d index width low accFields
  have accBits : accFields (mpuaccWritten c d v) := fun n hn => bit_mpuaccWritten c d v hn
  have baseBits {n : Nat} (hn : n < 32) (h0 : n = 0 ∨ 6 ≤ n) : bit (mpubaseWritten c v) n =
      ((bit v n && (decide (low (bit v 0) ≤ n) && decide (n < width (bit v 0)))) || (bit v 0 && decide (n = 0))) :=
    bit_mpubaseWritten c v hn h0
  have hlow : 8 ≤ low (bit v 0) := Nat.le_max_left _ _
  refine ⟨⟨_, exec_wrctl_mpubase hU hm, ?_, field_mpubaseWritten_index v hwf, ?_, ?_, fun n hn h7 => ?_⟩, fun hwr hrd => ?_,
    fun hwr hrd => ?_, fun hwr hrd g hg => ?_, fun hwr hrd hg => ?_, fun hwr hrd => ?_⟩
  · rw [baseBits (by decide) (.inl rfl), decide_eq_false (by omega : ¬ low (bit v 0) ≤ 0)]
    simp
  · rw [baseBits (by decide) (.inr (by decide)), decide_eq_false (by omega : ¬ low (bit v 0) ≤ 6)]
    simp
  · rw [baseBits (by decide) (.inr (by decide)), decide_eq_false (by omega : ¬ low (bit v 0) ≤ 7)]
    simp
  · rw [baseBits hn (.inr (by omega)), decide_eq_false (by omega : ¬ n = 0), Bool.and_false, Bool.or_false, Bool.and_assoc]
  · exact ⟨mpuaccWritten c d v, exec_wrctl_mpuacc hU hm (writeMpuacc_plain hwr hrd), accBits⟩
  · exact ⟨mpuaccWritten c d v, exec_wrctl_mpuacc hU hm (writeMpuacc_write hwr hrd), accBits⟩
  · rw [exec_wrctl_mpuacc hU hm (writeMpuacc_read hwr hrd), mpuRegionRead_some hg]
    rfl
  · obtain ⟨base, acc, free⟩ := mpuRegionRead_none hg
    exact ⟨_, exec_wrctl_mpuacc hU hm (writeMpuacc_read hwr hrd), by rw [free]; rfl⟩
  · exact exec_wrctl_stop hU ((writeCtl_mpuacc hm).trans (writeMpuacc_both hwr hrd))

end Machine

end Sys2Proof

/-! ## The decoder and the encoder (O1, O2, O4)

The encoder writes the operands of an instruction into the fields where the decoder reads them. Which words decode is a matter of OP and
OPX6 alone, said once for each of the decoder's two tables. -/

namespace Sys2Proof

/-! ### The round trip -/

/-- The four bytes of a word decode as the word does, whatever follows them. -/
theorem decode_bytesOfWord (w : Word) (rest : List Byte) :
    decode (bytesOfWord w ++ rest) = (decodeWord w).map (fun i => (i, rest)) := by
  simp only [bytesOfWord, List.cons_append, List.nil_append, decode, wordOfBytes_bytesOfWord]
  cases decodeWord w <;> rfl

/-- OP = 0x3A leads to the second table (30_encoding.md R207). -/
theorem decodeWord_encR (a b c : RegIdx) (opx : BitVec 6) (n : BitVec 5) :
    decodeWord (encR a b c opx n) = decodeR (encR a b c opx n) := by
  rw [decodeWord, opOf_encR]
  rfl

/-- The decoder reads every operand back, by the form of the word that holds it (30_encoding.md R201 to R204, R209): OP, and OPX6 in an
R-type word, select the instruction, and the fields are those that it was encoded from. -/
theorem decodeWord_encode (i : Instr) : decodeWord (encode i) = .ok i := by
  cases i with
  | call | jmpi =>
    rw [encode, decodeWord, opOf_encJ]
    exact congrArg Except.ok (by rw [imm26Of_encJ])
  | custom =>
    rw [encode, decodeWord, opOf_encCustom]
    exact congrArg Except.ok (by rw [customNOf_encCustom, readraOf_encCustom, readrbOf_encCustom, writercOf_encCustom,
      aOf_encCustom, bOf_encCustom, cOf_encCustom])
  | add | sub | and | or | xor | nor | mul | mulxss | mulxsu | mulxuu | div | divu | cmpeq | cmpne | cmpge | cmpgeu | cmplt | cmpltu
  | rol | roli | ror | sll | slli | srl | srli | sra | srai | callr | jmp | ret | nextpc | trap | eret | bret | brk | rdctl | wrctl
  | flushi | initi | flushp | sync | wrprs =>
    rw [encode, decodeWord_encR, decodeR, opxOf_encR]
    exact congrArg Except.ok (by simp only [aOf_encR, bOf_encR, cOf_encR, imm5Of_encR])
  | _ =>
    rw [encode, decodeWord, opOf_encI]
    exact congrArg Except.ok (by simp only [aOf_encI, bOf_encI, imm16Of_encI])

/-- Settles O1: the bytes make the word again, and the word gives its instruction back; the checks of `WellFormed` play no part in it. -/
theorem decodeEncodeRoundTrip : Obligations.DecodeEncodeRoundTrip := by
  intro i rest _
  rw [decode_bytesOfWord, decodeWord_encode]
  rfl

/-! ### What OP and OPX6 settle -/

/-- The 46 defined OP values, the R-type words' 0x3A among them (30_encoding.md R207). -/
def definedOps : List (BitVec 6) :=
  [0x00#6, 0x01#6, 0x03#6, 0x04#6, 0x05#6, 0x06#6, 0x07#6, 0x08#6, 0x0B#6, 0x0C#6, 0x0D#6, 0x0E#6, 0x0F#6, 0x10#6, 0x13#6, 0x14#6,
    0x15#6, 0x16#6, 0x17#6, 0x18#6, 0x1B#6, 0x1C#6, 0x1E#6, 0x20#6, 0x23#6, 0x24#6, 0x25#6, 0x26#6, 0x27#6, 0x28#6, 0x2B#6, 0x2C#6,
    0x2D#6, 0x2E#6, 0x2F#6, 0x30#6, 0x32#6, 0x33#6, 0x34#6, 0x35#6, 0x36#6, 0x37#6, 0x38#6, 0x3A#6, 0x3B#6, 0x3C#6]

/-- The 18 undefined OP values (30_encoding.md R207). -/
def undefinedOps : List (BitVec 6) :=
  [0x02#6, 0x09#6, 0x0A#6, 0x11#6, 0x12#6, 0x19#6, 0x1A#6, 0x1D#6, 0x1F#6, 0x21#6, 0x22#6, 0x29#6, 0x2A#6, 0x31#6, 0x39#6, 0x3D#6,
    0x3E#6, 0x3F#6]

/-- The 42 defined OPX6 values (30_encoding.md R208). -/
def definedOpxs : List (BitVec 6) :=
  [0x01#6, 0x02#6, 0x03#6, 0x04#6, 0x05#6, 0x06#6, 0x07#6, 0x08#6, 0x09#6, 0x0B#6, 0x0C#6, 0x0D#6, 0x0E#6, 0x10#6, 0x12#6, 0x13#6,
    0x14#6, 0x16#6, 0x17#6, 0x18#6, 0x1A#6, 0x1B#6, 0x1C#6, 0x1D#6, 0x1E#6, 0x1F#6, 0x20#6, 0x24#6, 0x25#6, 0x26#6, 0x27#6, 0x28#6,
    0x29#6, 0x2D#6, 0x2E#6, 0x30#6, 0x31#6, 0x34#6, 0x36#6, 0x39#6, 0x3A#6, 0x3B#6]

/-- The 22 undefined OPX6 values (30_encoding.md R208). -/
def undefinedOpxs : List (BitVec 6) :=
  [0x00#6, 0x0A#6, 0x0F#6, 0x11#6, 0x15#6, 0x19#6, 0x21#6, 0x22#6, 0x23#6, 0x2A#6, 0x2B#6, 0x2C#6, 0x2F#6, 0x32#6, 0x33#6, 0x35#6,
    0x37#6, 0x38#6, 0x3C#6, 0x3D#6, 0x3E#6, 0x3F#6]

theorem op_defined_or_undefined : ∀ op : BitVec 6, op ∈ definedOps ∨ op ∈ undefinedOps := by decide

theorem opx_defined_or_undefined : ∀ opx : BitVec 6, opx ∈ definedOpxs ∨ opx ∈ undefinedOpxs := by decide

/-- No instruction has these fields (30_encoding.md R206). -/
def UndefinedFields (op opx : BitVec 6) : Prop := op ∈ undefinedOps ∨ (op = 0x3A#6 ∧ opx ∈ undefinedOpxs)

/-- The second table decodes a defined OPX6 to an instruction that is encoded with it, and refuses an undefined one. -/
theorem decodeR_cases (w : Word) :
    (∃ i, decodeR w = .ok i ∧ opxOf w ∉ undefinedOpxs ∧ opOf (encode i) = 0x3A#6 ∧ opxOf (encode i) = opxOf w) ∨
    (decodeR w = .error (.reservedOpx (opxOf w)) ∧ opxOf w ∈ undefinedOpxs) := by
  unfold decodeR
  split
  case h_43 => exact .inr ⟨rfl, (opx_defined_or_undefined _).resolve_left (by simp_all [definedOpxs])⟩
  all_goals
    next h =>
      rw [h]
      exact .inl ⟨_, rfl, by decide, opOf_encR .., opxOf_encR ..⟩

/-- The first table decodes a defined OP to an instruction that is encoded with it, hands the R-type words to the second, and refuses an
undefined OP. -/
theorem decodeWord_cases (w : Word) :
    (∃ i, decodeWord w = .ok i ∧ ¬ UndefinedFields (opOf w) (opxOf w) ∧ opOf (encode i) = opOf w
      ∧ (opOf w = 0x3A#6 → opxOf (encode i) = opxOf w)) ∨
    ((∃ e, decodeWord w = .error e) ∧ UndefinedFields (opOf w) (opxOf w)) := by
  unfold decodeWord UndefinedFields
  split
  case h_44 h =>
    rw [h]
    rcases decodeR_cases w with ⟨i, hi, hdef, hop, hopx⟩ | ⟨he, hundef⟩
    · exact .inl ⟨i, hi, not_or.2 ⟨by decide, fun hr => hdef hr.2⟩, hop, fun _ => hopx⟩
    · exact .inr ⟨⟨_, he⟩, .inr ⟨rfl, hundef⟩⟩
  case h_47 => exact .inr ⟨⟨_, rfl⟩, .inl ((op_defined_or_undefined _).resolve_left (by simp_all [definedOps]))⟩
  all_goals
    next h =>
      rw [h]
      refine .inl ⟨_, rfl, not_or.2 ⟨by decide, fun hr => absurd hr.1 (by decide)⟩, ?_, fun hr => absurd hr (by decide)⟩
      simp only [encode, opOf_encI, opOf_encJ, opOf_encCustom]

/-- Settles O2: the fields of an undefined word lead to an error and no others do; the canonical word has the fields of the word that
decoded. -/
theorem wordsDecodeByOpAndOpx : Obligations.WordsDecodeByOpAndOpx := by
  intro w
  rcases decodeWord_cases w with ⟨i, hi, hdef, hop, hopx⟩ | ⟨⟨e, he⟩, hundef⟩
  · refine ⟨iff_of_false (fun ⟨e, he⟩ => ?_) hdef, fun j hj => ?_⟩
    · cases hi.symm.trans he
    · cases hi.symm.trans hj
      exact ⟨decodeWord_encode i, hop, hopx⟩
  · refine ⟨iff_of_true ⟨e, he⟩ hundef, fun i hi => ?_⟩
    cases he.symm.trans hi

/-! ### A word that no instruction has -/

namespace Machine

/-- A word that does not decode runs as such. -/
theorem runWord_undecoded {w : Word} {e : DecodeError} (h : decodeWord w = .error e) (late : Option LateExc) (s : State) :
    runWord { word := w, late := late } s = runUndecoded { word := w, late := late } s := by
  have hb : decode (bytesOfWord w) = .error e := by
    rw [← List.append_nil (bytesOfWord w), decode_bytesOfWord, h]
    rfl
  rw [runWord, hb]

/-- Settles O4: a word of INTERNAL_ENCODINGS stops first; of the others, the check decides. -/
theorem reservedWordRaises : Obligations.ReservedWordRaises := by
  rintro w s ⟨e, he⟩ runs
  have undecoded : runs = if w ∈ s.cfg.internalWords then .fault .internalWord else illegalInstruction s :=
    runWord_undecoded he none s
  refine ⟨fun hw hc => ⟨?_, rfl⟩, fun hw hc => ?_, fun hw => undecoded.trans (if_pos hw)⟩
  · rw [undecoded, if_neg hw, illegalInstruction, if_pos hc]
    rfl
  · rw [undecoded, if_neg hw, illegalInstruction, if_neg (by simp [hc])]

end Machine

end Sys2Proof

/-! ## Loads and stores at memory itself (O3, O11, O12)

An aligned access that `State.Reaches` memory itself is a bus read or a bus write at the translated address; what the translation leaves
has the registers, `pc` and the configuration of the state before it. -/

namespace Sys2Proof

/-! ### Words -/

/-- A word that the encoder writes decodes to its instruction. -/
theorem decodeWord_of_encode {w : Word} {i : Instr} (h : encode i = w) : decodeWord w = .ok i := h ▸ decodeWord_encode i

/-- Settles O3: each printed word is the one that the encoder writes. -/
theorem printedWordsDecode : Obligations.PrintedWordsDecode := by
  refine ⟨decodeWord_of_encode ?_, decodeWord_of_encode ?_, decodeWord_of_encode ?_, decodeWord_of_encode ?_,
    decodeWord_of_encode ?_, decodeWord_of_encode ?_, decodeWord_of_encode ?_, decodeWord_of_encode ?_,
    decodeWord_of_encode ?_, decodeWord_of_encode ?_, decodeWord_of_encode ?_, decodeWord_of_encode ?_⟩
  all_goals decide

namespace Machine

variable {s s1 t : State} {va : Word} {kind : AccessKind} {io : Bool} {p n : Nat} {a : RegIdx} {imm16 : BitVec 16}

/-- An instruction that the encoder writes as an I-type word has the word drawn field by field (30_encoding.md R201). -/
theorem coded_wordI {b : RegIdx} {op : BitVec 6} {i : Instr} (h : encode i = encI a b imm16 op) : Coded (wordI a b imm16 op) i :=
  have word := h.trans (wordI_eq a b imm16 op).symm
  ⟨decodeWord_of_encode word, word⟩

/-! ### What the translation leaves -/

theorem Inner.ready (h : Inner s t) (hr : s.Ready) : t.Ready := by
  unfold State.Ready State.SetImplemented State.crs
  rw [h.shadow, h.cfg, h.status]
  exact hr

theorem State.Reaches.inner (h : s.Reaches va kind io p s1) : Inner s s1 := by
  obtain ⟨-, c, ht, -⟩ := h
  have within := translateData_within va kind s
  rw [ht] at within
  exact within

/-! ### Loads -/

/-- `r` is what a load of `n` bytes at the physical address `p` answers, from the state `s1` that its translation leaves: `v` in its
register, or any value where the platform maps nothing (20_memory.md R110, U4, log 20). -/
def BusLoad (s s1 : State) (p n : Nat) (b : RegIdx) (v : Word) (r : Result) : Prop :=
  ∃ t, r = .next t ∧
    if ∀ k, k < n → s.cfg.dataMapped (p + k) = true then LoadResult (s1.afterRead p n) t b v (s.pc + 4#32)
    else LoadResult (s1.afterRead p n).drawn t b (Config.freeWord (s1.afterRead p n).draws) (s.pc + 4#32)

theorem opLoad_reaches (hr : s.Ready) (h : s.Reaches (s.effAddr a imm16) .load io p s1) (b : RegIdx) (extend : Word → Word)
    (ha : (s.effAddr a imm16).toNat % n = 0) :
    BusLoad s s1 p n b (extend (wordOfByteList (busBytes s1.cfg.dataRam s1 p n))) (opLoad io n extend b a imm16 s) := by
  have read : Inner s (s1.afterRead p n) := h.inner.trans (inner_busReadState _ s1 p n)
  have drawn : Inner s (s1.afterRead p n).drawn := read.trans (inner_drawn _)
  unfold opLoad
  rw [h.memRead_eq n extend ((aligned_iff _ n).2 ha), h.inner.cfg]
  by_cases hmap : ∀ k, k < n → s.cfg.dataMapped (p + k) = true
  · obtain ⟨t, ht, result⟩ := State.finishLoad_result (s1.afterRead p n) b
      (extend (wordOfByteList (busBytes s.cfg.dataRam s1 p n))) (read.ready hr)
    rw [read.pc] at result
    rw [if_pos ((allMapped_iff _ _ _).2 hmap)]
    exact ⟨t, ht, (if_pos hmap).mpr result⟩
  · obtain ⟨t, ht, result⟩ := State.finishLoad_result (s1.afterRead p n).drawn b
      (Config.freeWord (s1.afterRead p n).draws) (drawn.ready hr)
    rw [drawn.pc] at result
    rw [if_neg (mt (allMapped_iff _ _ _).1 hmap)]
    exact ⟨t, ht, (if_neg hmap).mpr result⟩

/-- The five loads of either kind: what each makes of the bytes that it reads (40_data_transfer.md R240 to R251). -/
theorem opLoad_reaches_extended (hr : s.Ready) (h : s.Reaches (s.effAddr a imm16) .load io p s1) (b : RegIdx) :
    let va := s.effAddr a imm16
    let byte := s1.busByte p 0
    let half := s1.busByte p 1 ++ s1.busByte p 0
    let word := s1.busByte p 3 ++ s1.busByte p 2 ++ s1.busByte p 1 ++ s1.busByte p 0
    BusLoad s s1 p 1 b (byte.signExtend 32) (opLoad io 1 extendByte b a imm16 s)
    ∧ BusLoad s s1 p 1 b (byte.setWidth 32) (opLoad io 1 extendZero b a imm16 s)
    ∧ (va.toNat % 2 = 0 → BusLoad s s1 p 2 b (half.signExtend 32) (opLoad io 2 extendHalf b a imm16 s)
      ∧ BusLoad s s1 p 2 b (half.setWidth 32) (opLoad io 2 extendZero b a imm16 s))
    ∧ (va.toNat % 4 = 0 → BusLoad s s1 p 4 b word (opLoad io 4 extendZero b a imm16 s)) := by
  intro va byte half word
  refine ⟨?_, ?_, fun h2 => ⟨?_, ?_⟩, fun h4 => ?_⟩
  · rw [← extendByte_setWidth, ← busBytes_one]
    exact opLoad_reaches hr h b extendByte (Nat.mod_one _)
  · rw [← busBytes_one]
    exact opLoad_reaches hr h b extendZero (Nat.mod_one _)
  · rw [← extendHalf_setWidth, ← busBytes_two]
    exact opLoad_reaches hr h b extendHalf h2
  · rw [← busBytes_two]
    exact opLoad_reaches hr h b extendZero h2
  · rw [show word = _ from (busBytes_four s1 p).symm]
    exact opLoad_reaches hr h b extendZero h4

/-- Settles O11: the words are I-type, and the plain and the io loads read the same bytes where each reaches memory itself. -/
theorem loadResults : Obligations.LoadResults := by
  intro a b imm16
  exact ⟨coded_wordI rfl, coded_wordI rfl, coded_wordI rfl, coded_wordI rfl, coded_wordI rfl, coded_wordI rfl, coded_wordI rfl,
    coded_wordI rfl, coded_wordI rfl, coded_wordI rfl, fun s s1 p hr =>
      ⟨rfl, fun h => opLoad_reaches_extended hr h b, fun h => opLoad_reaches_extended hr h b⟩⟩

/-! ### Stores -/

/-- A byte after a bus write: the one written where there is memory, and the old one elsewhere. -/
theorem busStore_written (ram : Nat → Bool) {m : Memory} (hm : m.wf = true) (p : Nat) {bs : List Byte} {k : Nat} (hk : k < bs.length) :
    (busStore ram m p bs).read (p + k) = if ram (p + k) then bs.getD k 0#8 else m.read (p + k) := by
  split
  · next hram => rw [busStore_same _ _ _ _ _ hm hk hram, List.getD_eq_getElem _ _ hk]
  · next hram => exact busStore_lost _ _ _ _ _ (by simpa using hram)

/-- A store of the data master, and the next `pc`. -/
theorem busWrite_stored (hm : s.mem.wf = true) (p : Nat) {bs : List Byte} (hb : bs ≠ []) :
    Stored s (s.busWrite p bs).advance p bs where
  bytes k hk := by
    rw [State.advance_mem, State.busWrite_eq, State.busWriteTo_mem]
    exact busStore_written _ hm p hk
  frame x hx := by
    rw [State.advance_mem, State.busWrite_eq, State.busWriteTo_mem]
    exact busStore_other _ _ _ _ _ hx
  rest := by
    rw [State.busWrite, State.busWriteTo, keepPrefetched_only]
    rfl
  marks := { busWrite_remarked s p bs with }
  kept := (busWrite_keeps s p bs hb).elsewhere _ _ _

theorem opStore_reaches (hm : s.mem.wf = true) (h : s.Reaches (s.effAddr a imm16) .store io p s1) (b : RegIdx)
    (ha : (s.effAddr a imm16).toNat % n = 0) (hb : storeBytes (s.reg b) n ≠ []) :
    ∃ t, opStore io n b a imm16 s = .next t ∧ Stored s1 t p (storeBytes (s.reg b) n) := by
  unfold opStore
  rw [h.memWrite_eq n (s.reg b) ((aligned_iff _ n).2 ha)]
  exact ⟨_, rfl, busWrite_stored (h.inner.memWf hm) p hb⟩

/-- Settles O12: each store is one bus write of the low bytes of its register. -/
theorem storeResults : Obligations.StoreResults := by
  intro a b imm16
  refine ⟨coded_wordI rfl, coded_wordI rfl, coded_wordI rfl, coded_wordI rfl, coded_wordI rfl, coded_wordI rfl, fun s s1 p hm => ?_⟩
  intro va v stores byte
  refine ⟨fun h => ⟨opStore_reaches (n := 1) hm h b (Nat.mod_one _) (List.cons_ne_nil _ _),
      fun h2 => opStore_reaches hm h b h2 (List.cons_ne_nil _ _), fun h4 => opStore_reaches hm h b h4 (List.cons_ne_nil _ _)⟩,
    fun h => ⟨opStore_reaches (n := 1) hm h b (Nat.mod_one _) (List.cons_ne_nil _ _),
      fun h2 => opStore_reaches hm h b h2 (List.cons_ne_nil _ _), fun h4 => opStore_reaches hm h b h4 (List.cons_ne_nil _ _)⟩⟩

end Machine

end Sys2Proof

/-! ## The arithmetic and logical instructions (O5 to O8)

Each of them is an operand form of the model's: its word is drawn as R-type or I-type, and what it writes is the operation that the form
names. Over these lie one fact about words for each operation, the check for the hardware, and the three ways a division ends. -/

namespace Sys2Proof

/-! ### Instructions that some cores lack (41_arith_logic.md R293) -/

theorem Config.mulImplemented_iff (c : Config) : c.mulImplemented = true ↔ c.isF = true ∧ (c.hwMul = .mul ∨ c.hwMul = .mulx) := by
  simp [Config.mulImplemented]

theorem Config.mulxImplemented_iff (c : Config) : c.mulxImplemented = true ↔ c.isF = true ∧ c.hwMul = .mulx := by
  simp [Config.mulxImplemented]

theorem Config.divImplemented_iff (c : Config) : c.divImplemented = true ↔ c.isF = true ∧ c.hwDiv = true := by
  simp [Config.divImplemented]

theorem Config.divErrChecked_of_divImplemented {c : Config} (h : c.divImplemented = true) : c.divErrChecked = c.checkDivErr := by
  rw [Config.divErrChecked, h, Bool.true_and]

/-! ### Immediates and results as words -/

theorem zext_imm16 (imm16 : BitVec 16) : zext imm16 = 0#16 ++ imm16 := BitVec.setWidth_eq_append (by decide)

theorem hiHalf_eq_append (imm16 : BitVec 16) : hiHalf imm16 = imm16 ++ 0#16 := by
  rw [BitVec.append_def, BitVec.shiftLeftZeroExtend_eq]
  exact (BitVec.or_zero (x := hiHalf imm16)).symm

theorem toInt_sext_imm16 (imm16 : BitVec 16) : (sext imm16).toInt = imm16.toInt := BitVec.toInt_signExtend_of_le (by decide)

theorem add_eq_ofNat (x y : Word) : x + y = BitVec.ofNat 32 (x.toNat + y.toNat) := by
  simp [BitVec.ofNat_add]

theorem add_eq_ofInt (x y : Word) : x + y = BitVec.ofInt 32 (x.toInt + y.toInt) := by
  simp [BitVec.ofInt_add]

theorem sub_eq_ofInt (x y : Word) : x - y = BitVec.ofInt 32 (x.toInt - y.toInt) := by
  rw [← BitVec.toInt_inj, BitVec.toInt_sub, BitVec.toInt_ofInt]

theorem mul_eq_ofNat (x y : Word) : x * y = BitVec.ofNat 32 (x.toNat * y.toNat) := by
  simp [BitVec.ofNat_mul]

theorem mul_eq_ofInt (x y : Word) : x * y = BitVec.ofInt 32 (x.toInt * y.toInt) := by
  simp [BitVec.ofInt_mul]

/-- Bits 63 to 32 of a 64-bit two's complement number are those of its quotient by 2^32, rounded down. -/
theorem highWord_ofInt (z : Int) : (BitVec.ofInt 64 z).extractLsb' 32 32 = BitVec.ofInt 32 (z / 2 ^ 32) := by
  apply BitVec.eq_of_toNat_eq
  rw [BitVec.extractLsb'_toNat, BitVec.toNat_ofInt, BitVec.toNat_ofInt, Nat.shiftRight_eq_div_pow]
  omega

theorem highWord_ofNat (n : Nat) : (BitVec.ofNat 64 n).extractLsb' 32 32 = BitVec.ofNat 32 (n / 2 ^ 32) := by
  rw [← BitVec.ofInt_natCast, highWord_ofInt, ← BitVec.ofInt_natCast]
  rfl

namespace Machine

/-! ### What the operand forms write -/

variable {i : Instr} {s : State} {a b c r : RegIdx} {imm16 : BitVec 16} {v : Word} {f : Word → Word → Word} {present error : Bool}
  {rest : Result}

/-- An instruction that the encoder writes as an R-type word has the word drawn field by field (30_encoding.md R202). -/
theorem coded_wordR {opx : BitVec 6} {n : BitVec 5} (h : encode i = encR a b c opx n) : Coded (wordR a b c opx n) i :=
  have word := h.trans (wordR_eq a b c opx n).symm
  ⟨decodeWord_of_encode word, word⟩

theorem yields_finish (h : exec i s = s.finish r v) (hr : s.Ready) : Yields i s r v := by
  obtain ⟨t, ht, result⟩ := s.finish_result r v hr
  exact ⟨t, h.trans ht, result⟩

theorem yields_opRRR (h : exec i s = opRRR f c a b s) (hr : s.Ready) (hv : f (s.reg a) (s.reg b) = v) : Yields i s c v :=
  hv ▸ yields_finish h hr

theorem yields_opRRSext (h : exec i s = opRRSext f b a imm16 s) (hr : s.Ready) (hv : f (s.reg a) (sext imm16) = v) :
    Yields i s b v := hv ▸ yields_finish h hr

theorem yields_opRRZext (h : exec i s = opRRZext f b a imm16 s) (hr : s.Ready) (hv : f (s.reg a) (zext imm16) = v) :
    Yields i s b v := hv ▸ yields_finish h hr

theorem yields_opRRHigh (h : exec i s = opRRHigh f b a imm16 s) (hr : s.Ready) (hv : f (s.reg a) (hiHalf imm16) = v) :
    Yields i s b v := hv ▸ yields_finish h hr

/-! ### Addition, subtraction and logic -/

/-- Settles O5: sums and differences of words are those of the numbers, signed or unsigned, modulo 2^32. -/
theorem addSubtractResults : Obligations.AddSubtractResults := by
  intro a b c imm16
  refine ⟨coded_wordR rfl, coded_wordI rfl, coded_wordR rfl, fun s hr => ⟨?add, ?addi, ?sub⟩⟩
  case add => exact yields_opRRR rfl hr (add_eq_ofNat _ _)
  case addi =>
    refine yields_opRRSext rfl hr ?_
    rw [add_eq_ofInt, toInt_sext_imm16]
  case sub => exact yields_opRRR rfl hr (sub_eq_ofInt _ _)

/-- Settles O6: the ten are three operations on rB or on an immediate with zeros above or below it, and `nor`. -/
theorem logicalResults : Obligations.LogicalResults := by
  intro a b c imm16
  refine ⟨coded_wordR rfl, coded_wordI rfl, coded_wordI rfl, coded_wordR rfl, coded_wordI rfl, coded_wordI rfl, coded_wordR rfl,
    coded_wordI rfl, coded_wordI rfl, coded_wordR rfl, fun s hr => ?_⟩
  rw [← zext_imm16, ← hiHalf_eq_append]
  exact ⟨yields_opRRR rfl hr rfl, yields_opRRZext rfl hr rfl, yields_opRRHigh rfl hr rfl,
    yields_opRRR rfl hr rfl, yields_opRRZext rfl hr rfl, yields_opRRHigh rfl hr rfl,
    yields_opRRR rfl hr rfl, yields_opRRZext rfl hr rfl, yields_opRRHigh rfl hr rfl,
    yields_opRRR (f := fun x y => ~~~(x ||| y)) rfl hr rfl⟩

/-! ### The check for the hardware -/

theorem exec_of_implemented (h : exec i s = whenImplemented present s rest) (hp : present = true) : exec i s = rest :=
  h.trans (if_pos hp)

theorem raises_unimplemented (h : exec i s = whenImplemented present s rest) (hp : ¬ present = true) :
    Raises i s .unimplemented 4#5 := ⟨h.trans (if_neg hp), rfl⟩

/-! ### Multiplication -/

/-- Settles O7: the low half is the product of words, whatever their signs; the high half depends on them. -/
theorem multiplyResults : Obligations.MultiplyResults := by
  intro a b c imm16
  refine ⟨coded_wordR rfl, coded_wordI rfl, coded_wordR rfl, coded_wordR rfl, coded_wordR rfl, fun s hr => ⟨?low, ?high⟩⟩
  case low =>
    split
    · next has =>
      have present := s.cfg.mulImplemented_iff.2 has
      refine ⟨yields_opRRR (exec_of_implemented rfl present) hr (mul_eq_ofNat _ _),
        yields_opRRSext (exec_of_implemented rfl present) hr ?_⟩
      rw [mul_eq_ofInt, toInt_sext_imm16]
    · next lacks =>
      have absent := mt s.cfg.mulImplemented_iff.1 lacks
      exact ⟨raises_unimplemented rfl absent, raises_unimplemented rfl absent⟩
  case high =>
    split
    · next has =>
      have present := s.cfg.mulxImplemented_iff.2 has
      exact ⟨yields_opRRR (exec_of_implemented rfl present) hr (highWord_ofInt _).symm,
        yields_opRRR (exec_of_implemented rfl present) hr (highWord_ofInt _).symm,
        yields_opRRR (exec_of_implemented rfl present) hr (highWord_ofNat _).symm⟩
    · next lacks =>
      have absent := mt s.cfg.mulxImplemented_iff.1 lacks
      exact ⟨raises_unimplemented rfl absent, raises_unimplemented rfl absent, raises_unimplemented rfl absent⟩

/-! ### Division -/

theorem divuError_iff (y : Word) : divuError y = true ↔ y = 0#32 := beq_iff_eq

/-- The error cases of `div`: a division by zero, and the one quotient that no word holds (41_arith_logic.md R294). -/
theorem divError_iff (x y : Word) : divError x y = true ↔ y = 0#32 ∨ x.toInt = -2 ^ 31 ∧ y.toInt = -1 := by
  have least : x = 0x80000000#32 ↔ x.toInt = -2 ^ 31 := BitVec.toInt_inj.symm
  have minusOne : y = 0xFFFFFFFF#32 ↔ y.toInt = -1 := BitVec.toInt_inj.symm
  rw [← least, ← minusOne, divError, Bool.or_eq_true, Bool.and_eq_true, beq_iff_eq, beq_iff_eq, beq_iff_eq]

/-- How a division ends on a core that has it: `Error` says in which cases the quotient is none (41_arith_logic.md R294, U18, log 30). -/
theorem opDivide_implemented {Error : Prop} [Decidable Error] (h : exec i s = opDivide error v c s) (hr : s.Ready)
    (present : s.cfg.divImplemented = true) (he : error = true ↔ Error) :
    if Error then
      (if s.cfg.checkDivErr then Raises i s .divisionError 8#5
      else ∃ t, exec i s = .next t ∧ RegResult s.drawn t c (Config.freeWord s.draws) (s.pc + 4#32))
    else Yields i s c v := by
  have outcome := exec_of_implemented h present
  rw [Config.divErrChecked_of_divImplemented present] at outcome
  split
  · next herr =>
    rw [if_pos (he.2 herr)] at outcome
    split
    · next checked => exact ⟨outcome.trans (if_pos checked), rfl⟩
    · next unchecked =>
      obtain ⟨t, ht, result⟩ := s.drawn.finish_result c (Config.freeWord s.draws) hr
      exact ⟨t, (outcome.trans (if_neg unchecked)).trans ht, result⟩
  · next hok => exact yields_finish (outcome.trans (if_neg (mt he.1 hok))) hr

/-- Settles O8: both divisions are the one form, each with its own error cases and its own quotient. -/
theorem divideResults : Obligations.DivideResults := by
  intro a b c
  refine ⟨coded_wordR rfl, coded_wordR rfl, fun s hr => ?_⟩
  split
  · next has =>
    have present := s.cfg.divImplemented_iff.2 has
    exact ⟨opDivide_implemented rfl hr present (divError_iff _ _), opDivide_implemented rfl hr present (divuError_iff _)⟩
  · next lacks =>
    have absent := mt s.cfg.divImplemented_iff.1 lacks
    exact ⟨raises_unimplemented rfl absent, raises_unimplemented rfl absent⟩

end Machine

end Sys2Proof

/-! ## The comparisons (O9)

A comparison is an operand form over a relation of words, and writes that relation's truth as a word. What is left to say is what each
relation means for the numbers that the words stand for, and that an extended immediate stands for the number it stood for before. -/

namespace Sys2Proof

theorem toNat_zext_imm16 (imm16 : BitVec 16) : (zext imm16).toNat = imm16.toNat := BitVec.toNat_setWidth_of_le (by decide)

namespace Machine

/-! ### The relations as propositions (43_compare.md R310, R332) -/

theorem truth_eq_ite {holds : Bool} {P : Prop} [Decidable P] (h : holds = true ↔ P) :
    truth holds = if P then 1#32 else 0#32 := by
  rw [truth, if_congr h rfl rfl]

theorem relEq_iff (x y : Word) : relEq x y = true ↔ x = y := beq_iff_eq

theorem relNe_iff (x y : Word) : relNe x y = true ↔ x ≠ y := bne_iff_ne

/-- Equality has no sign: words are equal where the signed numbers are. -/
theorem relEq_iff_toInt (x y : Word) : relEq x y = true ↔ x.toInt = y.toInt := (relEq_iff x y).trans BitVec.toInt_inj.symm

theorem relNe_iff_toInt (x y : Word) : relNe x y = true ↔ x.toInt ≠ y.toInt := (relNe_iff x y).trans BitVec.toInt_inj.symm.not

theorem relGe_iff (x y : Word) : relGe x y = true ↔ x.toInt ≥ y.toInt := decide_eq_true_iff

theorem relGeu_iff (x y : Word) : relGeu x y = true ↔ x.toNat ≥ y.toNat := decide_eq_true_iff

theorem relLt_iff (x y : Word) : relLt x y = true ↔ x.toInt < y.toInt := decide_eq_true_iff

theorem relLtu_iff (x y : Word) : relLtu x y = true ↔ x.toNat < y.toNat := decide_eq_true_iff

/-! ### What the comparison forms write -/

variable {i : Instr} {s : State} {a b c : RegIdx} {imm16 : BitVec 16} {rel : Word → Word → Bool} {P : Prop} [Decidable P]

theorem yields_opCompare (h : exec i s = opCompare rel c a b s) (hr : s.Ready) (hp : rel (s.reg a) (s.reg b) = true ↔ P) :
    Yields i s c (if P then 1#32 else 0#32) := yields_opRRR h hr (truth_eq_ite hp)

theorem yields_opCompareSext (h : exec i s = opCompareSext rel b a imm16 s) (hr : s.Ready)
    (hp : rel (s.reg a) (sext imm16) = true ↔ P) : Yields i s b (if P then 1#32 else 0#32) :=
  yields_opRRSext h hr (truth_eq_ite hp)

theorem yields_opCompareZext (h : exec i s = opCompareZext rel b a imm16 s) (hr : s.Ready)
    (hp : rel (s.reg a) (zext imm16) = true ↔ P) : Yields i s b (if P then 1#32 else 0#32) :=
  yields_opRRZext h hr (truth_eq_ite hp)

/-- Settles O9: the register forms compare two registers; the immediate forms compare a register with the extended immediate, whose
number is that of the immediate. -/
theorem compareResults : Obligations.CompareResults := by
  intro a b c imm16
  refine ⟨coded_wordR rfl, coded_wordR rfl, coded_wordR rfl, coded_wordR rfl, coded_wordR rfl, coded_wordR rfl,
    coded_wordI rfl, coded_wordI rfl, coded_wordI rfl, coded_wordI rfl, coded_wordI rfl, coded_wordI rfl, fun s hr => ?_⟩
  rw [← toInt_sext_imm16 imm16, ← toNat_zext_imm16 imm16]
  exact ⟨yields_opCompare rfl hr (relEq_iff _ _), yields_opCompare rfl hr (relNe_iff _ _),
    yields_opCompare rfl hr (relGe_iff _ _), yields_opCompare rfl hr (relGeu_iff _ _),
    yields_opCompare rfl hr (relLt_iff _ _), yields_opCompare rfl hr (relLtu_iff _ _),
    yields_opCompareSext rfl hr (relEq_iff_toInt _ _), yields_opCompareSext rfl hr (relNe_iff_toInt _ _),
    yields_opCompareSext rfl hr (relGe_iff _ _), yields_opCompareZext rfl hr (relGeu_iff _ _),
    yields_opCompareSext rfl hr (relLt_iff _ _), yields_opCompareZext rfl hr (relLtu_iff _ _)⟩

end Machine

end Sys2Proof

/-! ## The shifts and rotates (O10)

The amount is below 32 in either form. A shift is then an operation of words with its number; a rotation to the left is followed bit by
bit through its two shifts, of which each bit meets one, and a rotation to the right undoes one to the left. -/

namespace Sys2Proof

/-- Bits 4 to 0 of a word as a number (44_shift_rotate.md R350). -/
theorem toNat_field_low_five (w : Word) : (field w 0 5).toNat = w.toNat % 32 := BitVec.extractLsb'_toNat ..

namespace Machine

/-! ### The operations of 44_shift_rotate.md R350 -/

theorem shl_eq_ofNat (x : Word) (n : Nat) : shl x n = BitVec.ofNat 32 (x.toNat * 2 ^ n) := by
  apply BitVec.eq_of_toNat_eq
  rw [shl, BitVec.toNat_shiftLeft, BitVec.toNat_ofNat, Nat.shiftLeft_eq]

theorem shrl_eq_ofNat (x : Word) (n : Nat) : shrl x n = BitVec.ofNat 32 (x.toNat / 2 ^ n) := by
  rw [← Nat.shiftRight_eq_div_pow, ← BitVec.toNat_ushiftRight, BitVec.ofNat_toNat, BitVec.setWidth_eq]
  rfl

/-- An arithmetic shift to the right divides the signed number and rounds down. -/
theorem shra_eq_ofInt (x : Word) (n : Nat) : shra x n = BitVec.ofInt 32 (x.toInt / 2 ^ n) := by
  rw [shra, BitVec.sshiftRight, Int.shiftRight_eq_div_pow, Nat.cast_pow, Nat.cast_ofNat]

theorem getLsbD_shl (x : Word) (n : Nat) {i : Nat} (hi : i < 32) :
    (shl x n).getLsbD i = (!decide (i < n) && x.getLsbD (i - n)) := by
  rw [shl, BitVec.getLsbD_shiftLeft, decide_eq_true hi, Bool.true_and]

theorem getLsbD_shrl (x : Word) (n i : Nat) : (shrl x n).getLsbD i = x.getLsbD (n + i) := BitVec.getLsbD_ushiftRight ..

theorem rotl_zero (x : Word) : rotl x 0 = x := by
  rw [rotl, shl, shrl, BitVec.shiftLeft_zero, Nat.sub_zero, Nat.mod_self, BitVec.ushiftRight_zero, BitVec.or_self]

/-- A rotation to the left moves bit `k` to bit `k + n` modulo 32: the left shift brings it where that is below 32, and else the right
shift. -/
theorem getLsbD_rotl (x : Word) {n k : Nat} (hn : n < 32) (hk : k < 32) :
    (rotl x n).getLsbD ((k + n) % 32) = x.getLsbD k := by
  rcases Nat.eq_zero_or_pos n with rfl | hpos
  · rw [rotl_zero, Nat.add_zero, Nat.mod_eq_of_lt hk]
  · rw [rotl, BitVec.getLsbD_or, getLsbD_shl _ _ (Nat.mod_lt _ (by decide)), getLsbD_shrl]
    rcases Nat.lt_or_ge (k + n) 32 with stays | wraps
    · have target : (k + n) % 32 = k + n := Nat.mod_eq_of_lt stays
      have lost : x.getLsbD ((32 - n) % 32 + (k + n)) = false := BitVec.getLsbD_of_ge _ _ (by omega)
      rw [target, lost, Nat.add_sub_cancel, decide_eq_false (by omega : ¬ k + n < n), Bool.not_false, Bool.true_and, Bool.or_false]
    · have below : (k + n) % 32 < n := by omega
      have source : (32 - n) % 32 + (k + n) % 32 = k := by omega
      rw [source, decide_eq_true below, Bool.not_true, Bool.false_and, Bool.false_or]

/-- A rotation to the right brings bit `k + n` modulo 32 to bit `k`. -/
theorem getLsbD_rotr (x : Word) {n k : Nat} (hn : n < 32) (hk : k < 32) :
    (rotr x n).getLsbD k = x.getLsbD ((k + n) % 32) := by
  have back : ((k + n) % 32 + (32 - n) % 32) % 32 = k := by omega
  have moved := getLsbD_rotl x (n := (32 - n) % 32) (k := (k + n) % 32) (Nat.mod_lt _ (by decide)) (Nat.mod_lt _ (by decide))
  rwa [back] at moved

/-! ### What the shift forms write -/

variable {i : Instr} {s : State} {a b c : RegIdx} {imm5 : BitVec 5} {v : Word} {f : Word → Nat → Word}

theorem yields_opShiftReg (h : exec i s = opShiftReg f c a b s) (hr : s.Ready) (hv : f (s.reg a) ((s.reg b).toNat % 32) = v) :
    Yields i s c v := yields_finish (h.trans (by rw [opShiftReg, toNat_field_low_five, hv])) hr

theorem yields_opShiftImm (h : exec i s = opShiftImm f c a imm5 s) (hr : s.Ready) (hv : f (s.reg a) imm5.toNat = v) :
    Yields i s c v := hv ▸ yields_finish h hr

/-- Settles O10: three rotations, followed bit by bit, and three shifts in two forms each, which multiply or divide a number. -/
theorem shiftRotateResults : Obligations.ShiftRotateResults := by
  intro a b c imm5
  refine ⟨coded_wordR rfl, coded_wordR rfl, coded_wordR rfl, coded_wordR rfl, coded_wordR rfl, coded_wordR rfl, coded_wordR rfl,
    coded_wordR rfl, coded_wordR rfl, ?_⟩
  rintro s hr x n rfl rfl
  have amount : (s.reg b).toNat % 32 < 32 := Nat.mod_lt _ (by decide)
  exact ⟨⟨_, yields_opShiftReg rfl hr rfl, fun _ hk => getLsbD_rotl _ amount hk⟩,
    ⟨_, yields_opShiftImm rfl hr rfl, fun _ hk => getLsbD_rotl _ imm5.isLt hk⟩,
    ⟨_, yields_opShiftReg rfl hr rfl, fun _ hk => getLsbD_rotr _ amount hk⟩,
    yields_opShiftReg rfl hr (shl_eq_ofNat _ _), yields_opShiftImm rfl hr (shl_eq_ofNat _ _),
    yields_opShiftReg rfl hr (shrl_eq_ofNat _ _), yields_opShiftImm rfl hr (shrl_eq_ofNat _ _),
    yields_opShiftReg rfl hr (shra_eq_ofInt _ _), yields_opShiftImm rfl hr (shra_eq_ofInt _ _)⟩

end Machine

end Sys2Proof

/-! ## Program control (O27 to O29)

A transfer ends in three ways, by the alignment of its target and by the check; a branch transfers or falls through. The target of `call`
and `jmpi` is aligned by its form. What `trap` leaves is read off the operations that take an exception. -/

namespace Sys2Proof.Machine

open Sys2Proof

variable {i : Instr} {s commit : State} {a b : RegIdx} {imm16 : BitVec 16} {imm26 : BitVec 26} {target : Word}
  {rel : Word → Word → Bool} {P : Prop}

/-- An instruction that the encoder writes as a J-type word has the word drawn field by field (30_encoding.md R203). -/
theorem coded_wordJ {op : BitVec 6} (h : encode i = encJ imm26 op) : Coded (wordJ imm26 op) i :=
  have word := h.trans (wordJ_eq imm26 op).symm
  ⟨decodeWord_of_encode word, word⟩

/-! ### Transfers (45_program_control.md R361) -/

/-- The instruction ends at a misaligned target: it raises where the check is on, and has no defined behaviour where it is off (U6,
log 23). -/
def Misaligned (i : Instr) (s : State) (target : Word) : Prop :=
  if s.cfg.misalignedChecked then Raises i s (.misalignedDest target) 7#5 else exec i s = .fault .misalignedTransfer

/-- The whole effect of the instruction is `pc <- target`, where that is aligned. -/
def GoesTo (i : Instr) (s : State) (target : Word) : Prop :=
  if target.toNat % 4 = 0 then exec i s = .next { s with pc := target } else Misaligned i s target

/-- Whatever else the instruction was to do, it leaves undone at a misaligned target. -/
theorem misaligned_of_transfer (h : exec i s = transfer target commit s) (hm : target.toNat % 4 ≠ 0) : Misaligned i s target := by
  unfold Misaligned
  split
  · next checked => exact ⟨h.trans (transfer_misaligned commit s hm checked), rfl⟩
  · next unchecked => exact h.trans (transfer_unchecked commit s hm (Bool.eq_false_iff.2 unchecked))

theorem goesTo_of_transfer (h : exec i s = transfer target s s) : GoesTo i s target := by
  unfold GoesTo
  split
  · next ha => exact h.trans (transfer_aligned s s ha)
  · next hm => exact misaligned_of_transfer h hm

theorem goesTo_iff : GoesTo i s target ↔
    (target.toNat % 4 = 0 → exec i s = .next { s with pc := target }) ∧ (target.toNat % 4 ≠ 0 → Misaligned i s target) :=
  ite_prop_iff_and

/-! ### Branches (45_program_control.md R362 to R368, R375) -/

/-- The instruction does not transfer. It asks for its target only whether it is aligned, and then only with the check on, where a free
choice says whether it raises (D17, U19, log 31). -/
def FallsThrough (i : Instr) (s : State) (target : Word) : Prop :=
  if target.toNat % 4 = 0 ∨ s.cfg.misalignedChecked = false then exec i s = .next s.advance
  else exec i s = if Config.freeBool s.draws 0 then .next (s.drawn.take (.misalignedDest target)) else .next s.drawn.advance

theorem goesTo_of_opBranch (h : exec i s = opBranch rel a b imm16 s) (taken : rel (s.reg a) (s.reg b) = true) :
    GoesTo i s (s.branchTarget imm16) := goesTo_of_transfer (h.trans (if_pos taken))

theorem fallsThrough_of_opBranch (h : exec i s = opBranch rel a b imm16 s) (notTaken : ¬ rel (s.reg a) (s.reg b) = true) :
    FallsThrough i s (s.branchTarget imm16) := by
  have outcome := h.trans (if_neg notTaken)
  unfold FallsThrough
  split
  · next plain => exact outcome.trans (if_pos (plain.imp_left (field_low_two _).2))
  · next asks => exact outcome.trans (if_neg (mt (Or.imp_left (field_low_two _).1) asks))

/-- The two ways of a branch, by what its relation means. -/
theorem branch_outcomes (h : exec i s = opBranch rel a b imm16 s) (hp : rel (s.reg a) (s.reg b) = true ↔ P) :
    (P → GoesTo i s (s.branchTarget imm16)) ∧ (¬ P → FallsThrough i s (s.branchTarget imm16)) :=
  ⟨fun p => goesTo_of_opBranch h (hp.2 p), fun np => fallsThrough_of_opBranch h (mt hp.1 np)⟩

/-- Settles O27: `br` is a transfer, and the conditional branches are one form over six relations. -/
theorem branchResults : Obligations.BranchResults := by
  intro a b imm16
  exact ⟨coded_wordI rfl, coded_wordI rfl, coded_wordI rfl, coded_wordI rfl, coded_wordI rfl, coded_wordI rfl, coded_wordI rfl,
    fun s => ⟨goesTo_of_transfer rfl, branch_outcomes rfl (relEq_iff _ _), branch_outcomes rfl (relNe_iff _ _),
      branch_outcomes rfl (relGe_iff _ _), branch_outcomes rfl (relGeu_iff _ _), branch_outcomes rfl (relLt_iff _ _),
      branch_outcomes rfl (relLtu_iff _ _)⟩⟩

/-! ### Calls and jumps (45_program_control.md R369 to R374) -/

/-- The target of `call` and `jmpi` drawn field by field. -/
theorem callTarget_eq_append (s : State) (imm26 : BitVec 26) :
    s.callTarget imm26 = s.pc.extractLsb' 28 4 ++ imm26 ++ 0#2 := by
  apply BitVec.eq_of_getLsbD_eq
  intro i hi
  simp only [State.callTarget, field, BitVec.getLsbD_or, getLsbD_place, BitVec.getLsbD_append]
  interval_cases i <;> simp

/-- Settles O28: the return address is written where the target is aligned, and not before; the register jumps are transfers that write
nothing. -/
theorem callsAndJumps : Obligations.CallsAndJumps := by
  intro a c imm26
  refine ⟨coded_wordJ rfl, coded_wordR rfl, coded_wordR rfl, coded_wordJ rfl, coded_wordR rfl, coded_wordR rfl, fun s hr => ?_⟩
  rw [← callTarget_eq_append]
  refine ⟨⟨_, rfl, s.setReg_result 31#5 _ _ hr⟩, fun ha => ⟨_, transfer_aligned _ s ha, s.setReg_result 31#5 _ _ hr⟩,
    misaligned_of_transfer rfl, ?jmp, rfl, goesTo_iff.1 (goesTo_of_transfer rfl), yields_finish rfl hr⟩
  split
  · next h31 => exact if_neg (by simp [jmpRegisterOk, h31])
  · next hne => exact goesTo_iff.1 (goesTo_of_transfer (if_pos (bne_iff_ne.2 hne)))

end Sys2Proof.Machine

/-! ### What taking an exception leaves (60_exceptions.md R450 to R457) -/

namespace Sys2Proof.Machine

open Sys2Proof

@[simp] theorem State.saveForEntry_cfg (s : State) (ret : Word) : (s.saveForEntry ret).cfg = s.cfg := by
  unfold State.saveForEntry
  split <;> simp

@[simp] theorem State.saveForEntry_exception (s : State) (ret : Word) : (s.saveForEntry ret).exception = s.exception := by
  unfold State.saveForEntry
  split <;> simp

@[simp] theorem State.mmuOnEntry_cfg (s : State) (x : EntryArgs) (eh : Bool) : (s.mmuOnEntry x eh).cfg = s.cfg := by
  unfold State.mmuOnEntry
  split <;> rfl

@[simp] theorem State.mmuOnEntry_exception (s : State) (x : EntryArgs) (eh : Bool) : (s.mmuOnEntry x eh).exception = s.exception := by
  unfold State.mmuOnEntry
  split <;> rfl

@[simp] theorem State.causeOnEntry_exception (s : State) (x : EntryArgs) :
    (s.causeOnEntry x).exception = if s.cfg.isF then exceptionOnEntry x s.exception else s.exception := by
  unfold State.causeOnEntry
  split <;> rfl

@[simp] theorem State.eehOnEntry_exception (s : State) (x : EntryArgs) (eh : Bool) : (s.eehOnEntry x eh).exception = s.exception := by
  unfold State.eehOnEntry
  split <;> rfl

/-- Every exception leaves its cause in `exception` (60_exceptions.md R457). -/
theorem State.take_exception (s : State) (x : Exc) :
    (s.take x).exception = if s.cfg.isF then exceptionOnEntry (x.args s) s.exception else s.exception := by
  simp [State.take, State.nonbreakEntry]

/-- The cause is the CAUSE field, whatever ECCFTL becomes. -/
theorem field_cause_exceptionOnEntry (x : EntryArgs) (e : Word) : field (exceptionOnEntry x e) 2 5 = x.cause := by
  have cause : field (setField e 2 5 x.cause) 2 5 = x.cause := field_setField_same e 2 x.cause (by decide)
  unfold exceptionOnEntry
  dsimp only
  split
  · exact (field_setBit_other _ 31 2 5 _ (by decide)).trans cause
  · exact cause

@[simp] theorem State.take_status (s : State) (x : Exc) : (s.take x).status = entryStatus s.cfg s.status := rfl

@[simp] theorem State.take_mem (s : State) (x : Exc) : (s.take x).mem = s.mem := by
  rw [State.take, State.nonbreakEntry_only]

@[simp] theorem State.take_bstatus (s : State) (x : Exc) : (s.take x).bstatus = s.bstatus := by
  rw [State.take, State.nonbreakEntry_only]

/-- Every exception but a TLB miss goes to the general vector (60_exceptions.md R450). -/
theorem State.take_pc_general {s : State} {x : Exc} (h : (x.args s).tlbMiss = false) :
    (s.take x).pc = vectorOf s.cfg s.cfg.exceptionAddr := by
  rw [← vector_eq_vectorOf, State.take, State.nonbreakEntry_only, entryVector, h]
  rfl

/-- Outside an exception handler an exception saves `status` in `estatus` and the return address in `ea` of the normal set
(60_exceptions.md R450, R452). -/
theorem State.take_saves {s : State} (x : Exc) (h : stEh s.status = false) :
    (s.take x).estatus = s.status ∧ OneGpr s (s.take x) 0 29#5 (s.pc + 4#32) := by
  have save : s.saveForEntry s.nextPc = { s.setGpr 0 29#5 s.nextPc with estatus := s.status } := if_neg (by simp [h])
  have saved := s.setGpr_oneGpr 0 29#5 s.nextPc (Nat.zero_le _) (by decide)
  rw [State.take, State.nonbreakEntry_only, save, h]
  exact ⟨rfl, { saved with }⟩

/-- Settles O29: `trap` takes its exception and does nothing else, so each clause is one about taking an exception. -/
theorem trapResult : Obligations.TrapResult := by
  intro imm5
  refine ⟨coded_wordR rfl, fun s => ⟨_, rfl, rfl, ?_⟩⟩
  obtain ⟨user, pie, crs⟩ := entryStatus_mode s.cfg s.status
  refine ⟨State.take_pc_general rfl, pie, user, crs, fun hf => ?cause, State.take_saves .trap, s.take_mem .trap,
    s.take_bstatus .trap⟩
  rw [State.take_exception, if_pos hf]
  exact field_cause_exceptionOnEntry _ _

end Sys2Proof.Machine

/-! ## The status words, field by field (O35, O44)

What a status register takes from a word, said once for each field of 10_state.md R30. -/

namespace Sys2Proof

/-! ### What a configuration implements (10_state.md R30 to R40) -/

/-- The bits of a register-set number are those that `n` shadow sets need (10_state.md R33). -/
theorem setNumberMask_eq {n : Nat} (h : n ≠ 0) : setNumberMask n = BitVec.ofNat 6 (2 ^ (Nat.log2 n + 1) - 1) := by
  have log {k : Nat} (hlo : 2 ^ k ≤ n) (hhi : n < 2 ^ (k + 1)) : Nat.log2 n = k := (Nat.log2_eq_iff h).2 ⟨hlo, hhi⟩
  unfold setNumberMask
  rw [if_neg h]
  split
  · rw [log (k := 0) (by omega) (by omega)]; rfl
  · split
    · rw [log (k := 1) (by omega) (by omega)]; rfl
    · split
      · rw [log (k := 2) (by omega) (by omega)]; rfl
      · split
        · rw [log (k := 3) (by omega) (by omega)]; rfl
        · split
          · rw [log (k := 4) (by omega) (by omega)]; rfl
          · have wide : 5 ≤ Nat.log2 n := (Nat.le_log2 h).2 (by omega)
            obtain ⟨m, hm⟩ := Nat.exists_eq_add_of_le wide
            apply BitVec.eq_of_toNat_eq
            rw [hm, show 5 + m + 1 = m + 6 by omega, BitVec.toNat_ofNat, Nat.pow_add]
            show 63 = (2 ^ m * 64 - 1) % 64
            have := Nat.one_le_two_pow (n := m)
            omega

namespace Machine

theorem and_setNumberMask (c : Config) (f : BitVec 6) : f &&& setNumberMask c.shadowSets = implementedSet c f := by
  unfold implementedSet
  split
  · next h => rw [h]; exact BitVec.and_zero
  · next h => rw [setNumberMask_eq h, and_ofNat_mask]

end Machine

/-- A flag that lies outside a field. -/
theorem field_flagMask (on : Bool) {n lo k : Nat} (h : n < lo ∨ lo + k ≤ n) : field (flagMask on n) lo k = 0#k := by
  rcases h with h | h
  · exact field_place_below _ _ _ _ (by omega)
  · exact field_place_above _ _ _ _ h

theorem field_statusMask_prs (c : Config) : field c.statusMask 16 6 = setNumberMask c.shadowSets := by
  have level : field (if c.eic then 0x000003F8#32 else 0#32) 16 6 = 0#6 := by cases c.eic <;> decide
  simp (disch := omega) only [Config.statusMask, field_or, level, field_flagMask, field_place_same, field_place_below,
    BitVec.zero_or, BitVec.or_zero]

theorem field_statusMask_crs (c : Config) : field c.statusMask 10 6 = setNumberMask c.shadowSets := by
  have level : field (if c.eic then 0x000003F8#32 else 0#32) 10 6 = 0#6 := by cases c.eic <;> decide
  simp (disch := omega) only [Config.statusMask, field_or, level, field_flagMask, field_place_same, field_place_above,
    BitVec.zero_or, BitVec.or_zero]

theorem field_statusMask_il (c : Config) : field c.statusMask 4 6 = if c.eic then BitVec.allOnes 6 else 0#6 := by
  have level : field (if c.eic then 0x000003F8#32 else 0#32) 4 6 = if c.eic then BitVec.allOnes 6 else 0#6 := by
    cases c.eic <;> decide
  simp (disch := omega) only [Config.statusMask, field_or, level, field_flagMask, field_place_above, BitVec.zero_or, BitVec.or_zero]

theorem field_statusMask_reserved (c : Config) : field c.statusMask 24 8 = 0#8 := by
  have level : field (if c.eic then 0x000003F8#32 else 0#32) 24 8 = 0#8 := by cases c.eic <;> decide
  simp (disch := omega) only [Config.statusMask, field_or, level, field_flagMask, field_place_below, BitVec.zero_or]

/-- The flags below the fields of numbers, and NMI above them. -/
theorem bit_statusMask_flag (c : Config) {n : Nat} (hn : n < 4 ∨ n = 22) : bit c.statusMask n =
    if n = 22 ∨ n = 3 then c.eic else if n = 2 then c.hasEh else if n = 1 then c.hasU else true := by
  have h32 : n < 32 := by omega
  have number (lo : Nat) (hlo : lo = 10 ∨ lo = 16) : bit (place (setNumberMask c.shadowSets) lo) n = false := by
    rw [bit_place _ _ h32]
    rcases hn with h | h
    · rw [decide_eq_false (by omega), Bool.false_and]
    · rw [BitVec.getLsbD_of_ge _ _ (by omega), Bool.and_false]
  have level : bit (if c.eic then 0x000003F8#32 else 0#32) n = (c.eic && decide (n = 3)) := by
    have bits : ∀ n, n < 4 ∨ n = 22 → bit 0x000003F8#32 n = decide (n = 3) := by
      rintro n (h | rfl)
      · interval_cases n <;> decide
      · decide
    cases c.eic
    · exact BitVec.getLsbD_zero
    · exact bits n hn
  simp only [Config.statusMask, bit_or, number 16 (.inr rfl), number 10 (.inl rfl), level, bit_flagMask _ _ _ (show 23 < 32 by decide),
    bit_flagMask _ _ _ (show 22 < 32 by decide), bit_flagMask _ _ _ (show 2 < 32 by decide),
    bit_flagMask _ _ _ (show 1 < 32 by decide), bit_flagMask _ _ _ (show 0 < 32 by decide)]
  rcases hn with h | rfl
  · clear h32 number level
    interval_cases n <;> simp
  · simp

/-! ### What a status register takes from a word -/

/-- RSIE reads 1 where it is not implemented (10_state.md R31). -/
theorem Config.stRsie_normStatus (c : Config) (v : Word) : stRsie (c.normStatus v) = if c.hasRsie then stRsie v else true := by
  unfold stRsie
  rw [Config.normStatus, Config.statusFixed, bit_or, bit_and, c.bit_statusMask_rsie, bit_flagMask _ _ _ (by decide)]
  cases c.hasRsie <;> simp

theorem Config.stCrs_normStatus (c : Config) (v : Word) : stCrs (c.normStatus v) = Machine.implementedSet c (stCrs v) := by
  rw [stCrs, c.field_normStatus _ _ _ (by omega), field_statusMask_crs, Machine.and_setNumberMask]
  rfl

/-- A flag that is 0 where it is not implemented. -/
theorem Config.bit_normStatus_flag (c : Config) (v : Word) {n : Nat} (hn : n < 4 ∨ n = 22) : bit (c.normStatus v) n =
    ((if n = 22 ∨ n = 3 then c.eic else if n = 2 then c.hasEh else if n = 1 then c.hasU else true) && bit v n) := by
  rw [c.bit_normStatus _ _ (by omega), bit_statusMask_flag c hn, Bool.and_comm]

theorem Config.stNmi_normStatus (c : Config) (v : Word) : stNmi (c.normStatus v) = (c.eic && stNmi v) :=
  c.bit_normStatus_flag v (.inr rfl)

namespace Machine

theorem statusFields_normStatus (c : Config) (v : Word) : StatusFields c v (c.normStatus v) where
  rsie := c.stRsie_normStatus v
  prs := by
    rw [stPrs, c.field_normStatus _ _ _ (by omega), field_statusMask_prs, and_setNumberMask]
    rfl
  il := by
    rw [stIl, c.field_normStatus _ _ _ (by omega), field_statusMask_il]
    cases c.eic
    · exact BitVec.and_zero
    · exact BitVec.and_allOnes
  ih := c.bit_normStatus_flag v (by decide)
  eh := c.bit_normStatus_flag v (by decide)
  u := c.bit_normStatus_flag v (by decide)
  pie := c.bit_normStatus_flag v (by decide)
  reserved := by rw [c.field_normStatus _ _ _ (by omega), field_statusMask_reserved, BitVec.and_zero]

/-- A word that a status register holds has its own implemented fields (10_state.md R30). -/
theorem statusFields_self {c : Config} {w : Word} (h : c.normStatus w = w) : StatusFields c w w :=
  cast (congrArg (StatusFields c w) h) (statusFields_normStatus c w)

end Machine

end Sys2Proof

/-! ## `break` (O35) -/

namespace Sys2Proof.Machine

open Sys2Proof

/-- What a break makes of `status` before the configuration has its say (60_exceptions.md R460). -/
def breakWord (w : Word) : Word := setCrs 0#6 (setPrs (stCrs w) (setEh true (setU false (setPie false w))))

theorem breakStatus_eq (c : Config) (w : Word) : breakStatus c w = c.normStatus (breakWord w) := rfl

theorem breakWord_fields (w : Word) :
    stPie (breakWord w) = false ∧ stU (breakWord w) = false ∧ stCrs (breakWord w) = 0#6 ∧ stEh (breakWord w) = true
    ∧ stPrs (breakWord w) = stCrs w ∧ stRsie (breakWord w) = stRsie w ∧ stNmi (breakWord w) = stNmi w
    ∧ stIl (breakWord w) = stIl w ∧ stIh (breakWord w) = stIh w := by
  simp (disch := omega) only [stPie, stU, stCrs, stEh, stPrs, stRsie, stNmi, stIl, stIh, breakWord, setCrs, setPrs, setEh, setU,
    setPie, bit_setField_other, bit_setBit_other, bit_setBit_same, field_setField_same, field_setField_other, field_setBit_other,
    and_self]

/-- `status` after a break, field by field: one that the configuration lacks reads in the new word as it did in the old. -/
theorem breakStatus_fields {c : Config} {w : Word} (h : c.normStatus w = w) :
    stPie (breakStatus c w) = false ∧ stU (breakStatus c w) = false ∧ stCrs (breakStatus c w) = 0#6
    ∧ stEh (breakStatus c w) = c.hasEh ∧ stPrs (breakStatus c w) = stCrs w ∧ stRsie (breakStatus c w) = stRsie w
    ∧ stNmi (breakStatus c w) = stNmi w ∧ stIl (breakStatus c w) = stIl w ∧ stIh (breakStatus c w) = stIh w := by
  have old := statusFields_self h
  have oldCrs : stCrs w = implementedSet c (stCrs w) := by rw [← c.stCrs_normStatus, h]
  have oldNmi : stNmi w = (c.eic && stNmi w) := by rw [← c.stNmi_normStatus, h]
  have new := statusFields_normStatus c (breakWord w)
  obtain ⟨pie, u, crs, eh, prs, rsie, nmi, il, ih⟩ := breakWord_fields w
  rw [breakStatus_eq, new.pie, new.u, new.eh, new.prs, new.rsie, new.il, new.ih, c.stCrs_normStatus, c.stNmi_normStatus, pie, u,
    crs, eh, prs, rsie, nmi, il, ih, Bool.and_false, Bool.and_true, ← oldCrs, ← old.rsie, ← oldNmi, ← old.il, ← old.ih,
    ← and_setNumberMask, BitVec.zero_and]
  simp only [and_self]

theorem State.setGpr_normal_shadow (s : State) (r : RegIdx) (v : Word) : (s.setGpr 0 r v).shadow = s.shadow := by
  by_cases hr : r = 0#5
  · rw [State.setGpr, if_pos ⟨rfl, hr⟩]
  · exact (s.setGpr_files 0 r v fun h => hr h.2).2

/-- Settles O35: `break` is the break entry, whose one register write is that of `ba`. -/
theorem breakResult : Obligations.BreakResult := by
  intro imm5
  refine ⟨coded_wordR rfl, fun s hs => ⟨s.breakEntry, rfl, ?_⟩⟩
  have written := s.setGpr_written 0 30#5 s.nextPc s.pc (Nat.zero_le _) (by decide)
  have entered := s.breakEntry_only
  rw [s.setGpr_normal_shadow, vector_eq_vectorOf] at entered
  exact ⟨entered, { written.regs with }, written.noEcc, breakStatus_fields hs.1⟩

end Sys2Proof.Machine

/-! ## `flushi`, `initi`, `flushp` and `sync` (O22, O48) -/

namespace Sys2Proof.Machine

open Sys2Proof

variable {s : State} {i : Instr}

/-- A supervisor-only instruction in supervisor mode (46_other_control.md R391). -/
theorem supervisorOnly_supervisor (hU : stU s.status = false) (rest : Result) : supervisorOnly s rest = rest :=
  if_neg (Bool.eq_false_iff.1 hU)

/-- Settles O48: `flushp` is the pipeline flush, and `sync` no operation at all. -/
theorem flushpAndSync : Obligations.FlushpAndSync := ⟨coded_wordR rfl, coded_wordR rfl, fun _ => ⟨rfl, rfl⟩⟩

/-- A line loses its valid bit, whatever its tag; an index past the table reads as an invalid line before and after. -/
theorem iline_setIline_invalid (s : State) (k j : Nat) : (s.setIline k { s.iline k with valid := false }).iline j =
    if j = k then { s.iline k with valid := false } else s.iline j := by
  by_cases hk : k < s.icache.length
  · exact iline_setIline s k j _ hk
  · have past : s.iline k = CacheLine.invalid := List.getD_eq_default _ _ (Nat.le_of_not_lt hk)
    refine (iline_congr (List.set_eq_of_length_le (Nat.le_of_not_lt hk)) j).trans ?_
    split
    · next hj => rw [hj, past]; rfl
    · rfl

/-- The instruction completes by invalidating the instruction cache line at index `k`, of a core that has that cache, and leaves the
rest of the state alone but for where old instruction words may still be (20_memory.md R132, R133; log 39). -/
def InvalidatesIline (i : Instr) (s : State) (k : Nat) : Prop :=
  ∃ t, exec i s = .next t ∧ t = { s with
      pc := s.pc + 4#32, icache := t.icache, prefetched := t.prefetched, readAhead := t.readAhead }
    ∧ (s.cfg.icacheSize = 0 → t.icache = s.icache ∧ t.prefetched = s.prefetched ∧ t.readAhead = s.readAhead)
    ∧ (s.cfg.icacheSize ≠ 0 → FlushesAhead s t k
      ∧ ∀ j, t.iline j = if j = k then { s.iline k with valid := false } else s.iline j)

theorem invalidatesIline_of_exec {addr : Word} (h : s.Canonical) (run : exec i s = .next (s.icacheInvalidateLine addr).advance) :
    InvalidatesIline i s (addr.toNat / 32 % (s.cfg.icacheSize / 32)) := by
  obtain ⟨-, -, -, -, ahead⟩ := h
  refine ⟨_, run, ?_, fun h0 => ?_, fun hc => ⟨icacheInvalidateLine_flushes s addr hc ahead, fun j => ?_⟩⟩
  · unfold State.icacheInvalidateLine
    split <;> rfl
  · rw [State.icacheInvalidateLine, if_pos h0]
    exact ⟨rfl, rfl, rfl⟩
  · rw [State.icacheInvalidateLine, if_neg hc]
    exact iline_setIline_invalid s _ j

/-- Settles O22: both are the one invalidation, `initi` behind the supervisor check. -/
theorem instructionCacheInstructions : Obligations.InstructionCacheInstructions := by
  intro a
  exact ⟨coded_wordR rfl, coded_wordR rfl, fun s h => ⟨invalidatesIline_of_exec h rfl,
    fun hU => invalidatesIline_of_exec h (supervisorOnly_supervisor hU _), fun hU => ⟨supervisorOnly_user hU _, rfl⟩⟩⟩

end Sys2Proof.Machine

/-! ## `rdprs` and `wrprs` (O47)

The access to the previous set has four answers, by shadow sets, mode and PRS; where it is granted, one register is read or written. -/

namespace Sys2Proof.Machine

open Sys2Proof

variable {s : State} {rest : Result}

/-! ### The access (46_other_control.md R411, R412) -/

/-- Without shadow sets user mode sees one of two exceptions, by a free choice (U21, log 33). -/
theorem previousSetAccess_absent_user (h0 : s.cfg.shadowSets = 0) (hU : stU s.status = true) : previousSetAccess s rest =
    if Config.freeBool s.draws 0 then .next (s.drawn.take .supervisorOnlyInstr)
    else if s.cfg.illegalChecked then .next (s.drawn.take .illegal) else .fault .reservedWord :=
  (if_pos h0).trans (if_pos hU)

theorem previousSetAccess_absent (h0 : s.cfg.shadowSets = 0) (hU : stU s.status = false) :
    previousSetAccess s rest = illegalInstruction s :=
  (if_pos h0).trans (if_neg (Bool.eq_false_iff.1 hU))

theorem previousSetAccess_granted (h0 : s.cfg.shadowSets ≠ 0) (hU : stU s.status = false) (hp : s.prs ≤ s.cfg.shadowSets) :
    previousSetAccess s rest = rest :=
  (if_neg h0).trans ((supervisorOnly_supervisor hU _).trans (if_pos hp))

/-- PRS names no set (U1, log 17). -/
theorem previousSetAccess_unimplemented (h0 : s.cfg.shadowSets ≠ 0) (hU : stU s.status = false) (hp : ¬ s.prs ≤ s.cfg.shadowSets) :
    previousSetAccess s rest = .fault .unimplementedRegisterSet :=
  (if_neg h0).trans ((supervisorOnly_supervisor hU _).trans (if_neg hp))

/-! ### The write -/

/-- A pipeline flush after a register write: the old words and the old value of `eccinj` are no part of what the write says. -/
theorem Written.pipelineFlushed {t : State} {set : Nat} {r : RegIdx} {v pc' : Word} (h : Written s t set r v pc') :
    Written s.pipelineFlushed t.pipelineFlushed set r v pc' where
  pc := h.pc
  regs := { h.regs with }
  rest := (congrArg State.pipelineFlushed h.rest).trans rfl
  noEcc := h.noEcc
  injected := h.injected
  marks := h.marks

theorem State.prs_eq_zero_iff (s : State) : s.prs = 0 ↔ stPrs s.status = 0#6 := BitVec.toNat_inj (y := 0#6)

/-- Register 0 of the normal set takes nothing; every other register of an implemented set is written, register 0 of a shadow set
included (10_state.md R21, R25). -/
theorem setGpr_prs_result (h : s.Ready) (hp : s.prs ≤ s.cfg.shadowSets) (c : RegIdx) (v : Word) :
    let t := (s.setGpr s.prs c v).pipelineFlushed.advance
    if stPrs s.status = 0#6 ∧ c = 0#5 then t = { s.pipelineFlushed with pc := s.pc + 4#32 }
    else Written s.pipelineFlushed t s.prs c v (s.pc + 4#32) := by
  split
  · next hz =>
    rw [State.setGpr, if_pos (hz.imp_left s.prs_eq_zero_iff.2)]
    rfl
  · next hz =>
    have pc : (s.setGpr s.prs c v).pipelineFlushed.nextPc = s.pc + 4#32 := congrArg (· + 4#32) (s.setGpr_pc _ _ _)
    rw [State.advance, pc]
    exact (s.setGpr_written s.prs c v _ (h.1 ▸ hp) (mt (And.imp_left s.prs_eq_zero_iff.1) hz)).pipelineFlushed

/-- Settles O47: one case for each answer of the access. -/
theorem previousSetResults : Obligations.PreviousSetResults := by
  intro a b c imm16
  refine ⟨coded_wordI rfl, coded_wordR rfl, fun s hr => ⟨fun hU h0 => ?_, fun hU => ?_⟩⟩
  · exact ⟨previousSetAccess_absent_user h0 hU, previousSetAccess_absent_user h0 hU⟩
  · split
    · next h0 =>
      have illegal {rest : Result} := previousSetAccess_absent (rest := rest) h0 hU
      split
      · next hc => exact ⟨⟨illegal.trans (if_pos hc), rfl⟩, illegal.trans (if_pos hc), rfl⟩
      · next hc => exact ⟨illegal.trans (if_neg hc), illegal.trans (if_neg hc)⟩
    · next h0 =>
      split
      · next hp =>
        exact ⟨yields_finish (previousSetAccess_granted h0 hU hp) hr, _, previousSetAccess_granted h0 hU hp,
          setGpr_prs_result hr hp c _⟩
      · next hp => exact ⟨previousSetAccess_unimplemented h0 hU hp, previousSetAccess_unimplemented h0 hU hp⟩

end Sys2Proof.Machine

/-! ## `rdctl` (O43) -/

namespace Sys2Proof

/-- A field that `m` covers is 0 where the masked word is. -/
theorem field_eq_zero_of_and {w m : Word} {lo k : Nat} (h : w &&& m = 0#32) (hm : field m lo k = BitVec.allOnes k) :
    field w lo k = 0#k := by
  have masked := field_and w m lo k
  rw [h, hm, BitVec.and_allOnes] at masked
  rw [← masked]
  exact BitVec.extractLsb'_zero ..

namespace Machine

variable {s : State} {n : BitVec 5}

/-! ### The hazard of `eccinj` (70_reset_and_hazards.md R543) -/

/-- Of one of its eleven fields, `rdctl` still returns the whole old value or nothing. -/
theorem field_eccinjSeen (s : State) {k : Nat} (hk : k < 11) :
    field s.eccinjSeen (2 * k) 2 = 0#2 ∨ field s.eccinjSeen (2 * k) 2 = field s.eccinjOld (2 * k) 2 := by
  unfold State.eccinjSeen
  refine List.foldlRecOn (motive := fun w => field w (2 * k) 2 = 0#2 ∨ field w (2 * k) 2 = field s.eccinjOld (2 * k) 2) _ _
    (.inl BitVec.extractLsb'_zero) fun w hw j hj => ?_
  split
  · rw [field_or, field_and]
    by_cases hjk : j = k
    · subst hjk
      rw [field_place_same _ _ (by omega), show (3#2) = BitVec.allOnes 2 from rfl, BitVec.and_allOnes]
      rcases hw with hw | hw
      · exact .inr (by rw [hw, BitVec.zero_or])
      · exact .inr (by rw [hw, BitVec.or_self])
    · have apart : field (place 3#2 (2 * j)) (2 * k) 2 = 0#2 := by
        rcases Nat.lt_or_gt_of_ne hjk with h | h
        · exact field_place_below _ _ _ _ (by omega)
        · exact field_place_above _ _ _ _ (by omega)
      rw [apart, BitVec.and_zero, BitVec.or_zero]
      exact hw
  · exact hw

/-- The condition of the hazard: an old value of an injection may still be read. -/
theorem ctlRead_hazard (h : n = 11#5 ∧ s.cfg.ecc = true ∧ s.eccinjOld ≠ 0#32) :
    s.ctlRead n = { s with eccinjOld := s.eccinjSeen, draws := s.draws + 1 } := if_pos h

theorem readCtl_hazard (he : s.cfg.ecc = true) (ho : s.eccinjOld ≠ 0#32) : s.readCtl 11#5 = s.eccinj ||| s.eccinjSeen :=
  (if_pos he).trans (if_neg ho)

theorem ctlRead_settled (h : ¬ (n = 11#5 ∧ s.cfg.ecc = true ∧ s.eccinjOld ≠ 0#32)) : s.ctlRead n = s := if_neg h

/-- Outside the hazard `eccinj` reads as it is. -/
theorem readCtl_eccinj (h : ¬ (s.cfg.ecc = true ∧ s.eccinjOld ≠ 0#32)) : s.readCtl 11#5 = whenPresent s.cfg.ecc s.eccinj := by
  show whenPresent s.cfg.ecc _ = _
  cases he : s.cfg.ecc
  · rfl
  · rw [if_pos (by simpa [he] using h)]

/-- The bits that `config` holds are those that `rdctl` reads. -/
theorem readCtl_config (h : s.config &&& ~~~configMask s.cfg = 0#32) : s.readCtl 13#5 = s.config := by
  calc s.config &&& configMask s.cfg
    _ = s.config &&& configMask s.cfg ||| s.config &&& ~~~configMask s.cfg := by rw [h, BitVec.or_zero]
    _ = s.config := by
      apply BitVec.eq_of_getLsbD_eq
      intro i hi
      simp only [BitVec.getLsbD_or, BitVec.getLsbD_and, BitVec.getLsbD_not, hi, decide_true, Bool.true_and]
      cases s.config.getLsbD i <;> cases (configMask s.cfg).getLsbD i <;> rfl

theorem whenPresent_not (present : Bool) (v : Word) : whenPresent (!present) v = if present then 0#32 else v := by
  cases present <;> rfl

theorem exec_rdctl (hU : stU s.status = false) (c : RegIdx) (n : BitVec 5) :
    exec (.rdctl c n) s = (s.ctlRead n).finish c (s.readCtl n) := supervisorOnly_supervisor hU _

theorem RegResult.eccinjOld {t : State} {r : RegIdx} {v pc' : Word} (h : RegResult s t r v pc') : t.eccinjOld = s.eccinjOld := by
  unfold RegResult at h
  split at h
  · rw [h]
  · exact (congrArg State.eccinjOld h.rest).trans rfl

/-- Settles O43: the hazard of `eccinj`, and else one case for each number. -/
theorem rdctlResults : Obligations.RdctlResults := by
  intro c n
  refine ⟨coded_wordR rfl, fun s hr hs hU => ?_⟩
  intro two
  obtain ⟨-, -, -, -, inj, old, config, -⟩ := hs
  have run := exec_rdctl hU c n
  by_cases hazard : n = 11#5 ∧ s.cfg.ecc = true ∧ s.eccinjOld ≠ 0#32
  · rw [if_pos hazard]
    rw [ctlRead_hazard hazard] at run
    obtain ⟨rfl, he, ho⟩ := hazard
    rw [readCtl_hazard he ho] at run
    obtain ⟨t, ht, result⟩ := State.finish_result { s with eccinjOld := s.eccinjSeen, draws := s.draws + 1 } c
      (s.eccinj ||| s.eccinjSeen) hr
    have seen : t.eccinjOld = s.eccinjSeen := result.eccinjOld
    have seenReserved := eccinjSeen_and_eq_zero s old
    refine ⟨t, s.eccinj ||| s.eccinjSeen, run.trans ht, seen ▸ result,
      field_eq_zero_of_and (or_and_eq_zero inj seenReserved) (by decide), seen ▸ field_eq_zero_of_and seenReserved (by decide), fun k hk => ?_⟩
    have both : two (s.eccinj ||| s.eccinjSeen) k = two s.eccinj k ||| two s.eccinjSeen k := field_or _ _ _ _
    rw [both, seen]
    rcases field_eccinjSeen s hk with nothing | whole
    · exact .inl ⟨(congrArg _ nothing).trans BitVec.or_zero, nothing⟩
    · exact .inr ⟨congrArg _ whole, whole⟩
  · rw [if_neg hazard]
    rw [ctlRead_settled hazard] at run
    refine yields_finish (run.trans (congrArg (s.finish c) ?_)) hr
    unfold State.readCtl
    split
    -- the registers that an EIC takes away, `eccinj`, `config`, and the numbers of no register
    case h_4 => exact whenPresent_not _ _
    case h_5 => exact whenPresent_not _ _
    case h_11 => exact readCtl_eccinj fun h => hazard ⟨rfl, h⟩
    case h_13 => exact readCtl_config config
    case h_16 => repeat rw [if_neg ‹_›]
    all_goals rfl

end Machine

end Sys2Proof

/-! ## `wrctl` (O44) -/

namespace Sys2Proof.Machine

open Sys2Proof

variable {s : State} {a : RegIdx}

/-! ### `status` (10_state.md R40) -/

/-- `v` with the NMI and the CRS of `cur`: what `wrctl status` writes before the configuration has its say. -/
def keepSet (cur v : Word) : Word := setNmi (stNmi cur) (setCrs (stCrs cur) v)

theorem keepSet_fields (cur v : Word) :
    stNmi (keepSet cur v) = stNmi cur ∧ stCrs (keepSet cur v) = stCrs cur ∧ stRsie (keepSet cur v) = stRsie v
    ∧ stPrs (keepSet cur v) = stPrs v ∧ stIl (keepSet cur v) = stIl v ∧ stIh (keepSet cur v) = stIh v
    ∧ stEh (keepSet cur v) = stEh v ∧ stU (keepSet cur v) = stU v ∧ stPie (keepSet cur v) = stPie v := by
  simp (disch := omega) only [stPie, stU, stCrs, stEh, stPrs, stRsie, stNmi, stIl, stIh, keepSet, setNmi, setCrs,
    bit_setField_other, bit_setBit_other, bit_setBit_same, field_setField_same, field_setField_other, field_setBit_other, and_self]

theorem getLsbD_keepSet (cur v : Word) {i : Nat} (hi : i < 32) :
    (keepSet cur v).getLsbD i = if (0xFFBF03FF#32).getLsbD i then v.getLsbD i else cur.getLsbD i := by
  have mask : ∀ i, i < 32 → (0xFFBF03FF#32).getLsbD i = !decide (i = 22 ∨ 10 ≤ i ∧ i < 16) := by decide
  rw [mask i hi, keepSet, setNmi, setBit, getLsbD_setField, setCrs, getLsbD_setField]
  by_cases nmi : i = 22
  · subst nmi
    simp [stNmi, bit]
  · have notNmi : ¬ (22 ≤ i ∧ i < 22 + 1 ∧ i < 32) := by omega
    rw [if_neg notNmi]
    by_cases crs : 10 ≤ i ∧ i < 16
    · have inside : 10 ≤ i ∧ i < 10 + 6 ∧ i < 32 := by omega
      have back : 10 + (i - 10) = i := by omega
      have width : i - 10 < 6 := by omega
      have kept : (stCrs cur).getLsbD (i - 10) = cur.getLsbD i := by
        rw [stCrs, getLsbD_field, decide_eq_true width, Bool.true_and, back]
      rw [if_pos inside, kept, if_neg (by simp [crs])]
    · have outside : ¬ (10 ≤ i ∧ i < 10 + 6 ∧ i < 32) := by omega
      simp [outside, crs, nmi]

/-- `wrctl status` writes the implemented fields but NMI and CRS: the two masks pick the bits of `keepSet`. -/
theorem writeStatus_eq (s : State) (v : Word) : s.writeStatus v = { s with status := s.cfg.normStatus (keepSet s.status v) } := by
  have word : s.cfg.normStatus ((v &&& s.cfg.statusWritable) ||| (s.status &&& ~~~s.cfg.statusWritable))
      = s.cfg.normStatus (keepSet s.status v) := by
    apply BitVec.eq_of_getLsbD_eq
    intro i hi
    simp only [Config.normStatus, Config.statusWritable, BitVec.getLsbD_or, BitVec.getLsbD_and, BitVec.getLsbD_not, hi,
      getLsbD_keepSet, decide_true, Bool.true_and]
    cases s.cfg.statusMask.getLsbD i
    · simp
    · cases (0xFFBF03FF#32).getLsbD i <;> simp
  rw [State.writeStatus, word]

/-- The fields that `wrctl status` writes are those of the operand. -/
theorem statusFields_keepSet (c : Config) (cur v : Word) : StatusFields c v (c.normStatus (keepSet cur v)) := by
  have written := statusFields_normStatus c (keepSet cur v)
  obtain ⟨-, -, rsie, prs, il, ih, eh, u, pie⟩ := keepSet_fields cur v
  exact { rsie := rsie ▸ written.rsie, prs := prs ▸ written.prs, il := il ▸ written.il, ih := ih ▸ written.ih, eh := eh ▸ written.eh,
          u := u ▸ written.u, pie := pie ▸ written.pie, reserved := written.reserved }

theorem stCrs_keepSet {c : Config} {cur : Word} (h : c.normStatus cur = cur) (v : Word) :
    stCrs (c.normStatus (keepSet cur v)) = stCrs cur := by
  obtain ⟨-, crs, -⟩ := keepSet_fields cur v
  rw [c.stCrs_normStatus, crs, ← c.stCrs_normStatus, h]

theorem stNmi_keepSet {c : Config} {cur : Word} (h : c.normStatus cur = cur) (v : Word) :
    stNmi (c.normStatus (keepSet cur v)) = stNmi cur := by
  obtain ⟨nmi, -⟩ := keepSet_fields cur v
  rw [c.stNmi_normStatus, nmi, ← c.stNmi_normStatus, h]

/-! ### The other registers -/

/-- The end of a `wrctl` that leaves `pc` to it. -/
theorem exec_wrctl_done {n : BitVec 5} {u : State} (hU : stU s.status = false) (h : s.writeCtl n (s.reg a) = .ok () u)
    (pc : u.pc = s.pc) : exec (.wrctl n a) s = .next (if n = 14#5 ∨ n = 15#5 then { u with pc := s.pc + 4#32 }
        else { u with pc := s.pc + 4#32, prefetched := [], eccinjOld := 0#32 }) := by
  rw [exec_wrctl_eq hU h, State.flushedBy, ← pc]
  split <;> rfl

/-- A register that software only reads takes nothing, and neither does a reserved one (10_state.md R44 to R48, R60; D2, log 46). -/
theorem writeCtl_ignored {n : BitVec 5} (h : n ∈ [4#5, 5#5, 6#5, 7#5, 12#5] ∨ 16 ≤ n.toNat) (v : Word) :
    s.writeCtl n v = .ok () s := by
  unfold State.writeCtl
  split
  case h_12 => rfl
  all_goals exact absurd h (by decide)

theorem writeCtl_noMmu {n : BitVec 5} (h : n = 9#5 ∨ n = 10#5) (hm : s.cfg.mmu = false) (v : Word) : s.writeCtl n v = .ok () s := by
  rcases h with rfl | rfl <;> simp only [State.writeCtl, writeWhen, hm, Bool.false_eq_true, if_false]

theorem writeCtl_noMpu {n : BitVec 5} (h : n = 14#5 ∨ n = 15#5) (hm : s.cfg.mpu = false) (v : Word) : s.writeCtl n v = .ok () s := by
  rcases h with rfl | rfl <;> simp only [State.writeCtl, writeWhen, hm, Bool.false_eq_true, if_false]

theorem writeCtl_ienable (s : State) (v : Word) :
    s.writeCtl 3#5 v = .ok () { s with ienable := if s.cfg.eic then s.ienable else v } := by
  simp only [State.writeCtl, writeWhen]
  cases s.cfg.eic <;> rfl

theorem and_high30 (v : Word) : v &&& 0xFFFFFFFC#32 = v.extractLsb' 2 30 ++ 0#2 := by
  apply BitVec.eq_of_getLsbD_eq
  intro i hi
  simp only [BitVec.getLsbD_and, BitVec.getLsbD_append, BitVec.getLsbD_extractLsb']
  interval_cases i <;> simp

theorem writeCtl_pteaddr (s : State) (v : Word) :
    s.writeCtl 8#5 v = .ok () { s with pteaddr := if s.cfg.mmu then v.extractLsb' 2 30 ++ 0#2 else s.pteaddr } := by
  simp only [State.writeCtl, writeWhen, and_high30]
  cases s.cfg.mmu <;> rfl

theorem and_low22 (v : Word) : v &&& 0x003FFFFF#32 = 0#10 ++ v.extractLsb' 0 22 := by
  rw [and_lowMask_eq_place v (k := 22) _ rfl, ← place_word (0#10 ++ v.extractLsb' 0 22), place_append]
  simp [field]

theorem writeCtl_eccinj (s : State) (v : Word) :
    s.writeCtl 11#5 v = .ok () { s with eccinj := if s.cfg.ecc then 0#10 ++ v.extractLsb' 0 22 else s.eccinj } := by
  simp only [State.writeCtl, writeWhen, and_low22]
  cases s.cfg.ecc <;> rfl

/-- The implemented bits of `config`, drawn one by one (10_state.md R61). -/
theorem and_configMask (c : Config) (v : Word) : v &&& configMask c =
    0#28 ++ BitVec.ofBool (c.ecc && bit v 3) ++ BitVec.ofBool (c.ecc && bit v 2)
      ++ BitVec.ofBool (c.eic && decide (0 < c.shadowSets) && bit v 1) ++ BitVec.ofBool (c.mpu && bit v 0) := by
  have mask (i : Nat) : (configMask c).getLsbD i = (c.mpu && decide (i = 0) || (c.eic && decide (0 < c.shadowSets)) && decide (i = 1)
      || c.ecc && decide (i = 2) || c.ecc && decide (i = 3)) := by
    have flag (on : Bool) {k : Nat} (hk : k < 32) : (flagMask on k).getLsbD i = (on && decide (i = k)) := bit_flagMask on k i hk
    simp (disch := decide) only [configMask, BitVec.getLsbD_or, flag]
  apply BitVec.eq_of_getLsbD_eq
  intro i hi
  rw [BitVec.getLsbD_and, mask]
  simp only [BitVec.getLsbD_append]
  interval_cases i <;> simp [bit, Bool.and_comm]

theorem writeCtl_config (s : State) (v : Word) : s.writeCtl 13#5 v = .ok () { s with config :=
    (0#28 ++ BitVec.ofBool (s.cfg.ecc && bit v 3) ++ BitVec.ofBool (s.cfg.ecc && bit v 2)
      ++ BitVec.ofBool (s.cfg.eic && decide (0 < s.cfg.shadowSets) && bit v 1) ++ BitVec.ofBool (s.cfg.mpu && bit v 0) : Word) } := by
  rw [← and_configMask]
  rfl

/-- Settles O44: one case for each register. -/
theorem wrctlResults : Obligations.WrctlResults := by
  intro a n
  refine ⟨coded_wordR rfl, fun s hs hU => ?_⟩
  intro v c done whole
  have ends {u : State} (h : s.writeCtl n v = .ok () u) (pc : u.pc = s.pc) : done u := exec_wrctl_done hU h pc
  have normal : whole (c.normStatus v) := ⟨statusFields_normStatus c v, c.stCrs_normStatus v, c.stNmi_normStatus v⟩
  refine ⟨?status, ?estatus, ?bstatus, ?ienable, ?pteaddr, ?eccinj, ?config, fun h hm => ends (writeCtl_noMmu h hm v) rfl,
    fun h hm => ends (writeCtl_noMpu h hm v) rfl, fun h => ends (writeCtl_ignored h v) rfl⟩
  case status =>
    rintro rfl
    obtain ⟨status, -, -⟩ := hs
    exact ⟨c.normStatus (keepSet s.status v), ends (congrArg (Flow.ok ()) (writeStatus_eq s v)) rfl,
      statusFields_keepSet c s.status v, stCrs_keepSet status v, stNmi_keepSet status v⟩
  case estatus =>
    rintro rfl
    exact ⟨c.normStatus v, ends rfl rfl, normal⟩
  case bstatus =>
    rintro rfl
    exact ⟨c.normStatus v, ends rfl rfl, normal⟩
  case ienable =>
    rintro rfl
    exact ends (writeCtl_ienable s v) rfl
  case pteaddr =>
    rintro rfl
    exact ends (writeCtl_pteaddr s v) rfl
  case eccinj =>
    rintro rfl
    exact ends (writeCtl_eccinj s v) rfl
  case config =>
    rintro rfl
    exact ends (writeCtl_config s v) rfl

end Sys2Proof.Machine

/-! ## `custom` (O49) -/

namespace Sys2Proof.Machine

open Sys2Proof

/-- An instruction that the encoder writes as a `custom` word has the word drawn field by field (30_encoding.md R204). -/
theorem coded_wordCustom {n : BitVec 8} {readra readrb writerc : Bool} {c a b : RegIdx} {i : Instr}
    (h : encode i = encCustom n readra readrb writerc c a b) : Coded (wordCustom n readra readrb writerc c a b) i :=
  have word := h.trans (wordCustom_eq n readra readrb writerc c a b).symm
  ⟨decodeWord_of_encode word, word⟩

/-- Settles O49: the logic takes its next state first, then the result is written as any instruction writes its own, or nothing is. -/
theorem customResult : Obligations.CustomResult := by
  intro n readra readrb writerc a b c
  refine ⟨coded_wordCustom rfl, fun s hr => ⟨fun hw => ?writes, fun hw => ?silent⟩⟩
  case writes =>
    subst hw
    exact State.finish_result { s with customState := _ } c _ hr
  case silent =>
    subst hw
    rfl

end Sys2Proof.Machine

/-! ## Taking an exception (O30 to O33)

The arguments of an entry are those of the tables, and each field that an entry writes has one equation. -/

namespace Sys2Proof

theorem bit_setBit (w : Word) (n m : Nat) (v : Bool) (hn : n < 32) : bit (setBit w n v) m = if m = n then v else bit w m := by
  split
  · next h => rw [h, bit_setBit_same w n v hn]
  · next h => exact bit_setBit_other w n m v fun e => h e.symm

namespace Machine

variable {s : State} {x : Exc} {c : Config} {w : Word}

/-! ### The arguments (60_exceptions.md R432, R449, R454, R457) -/

/-- What an exception passes to the entry is what the tables say of its cause. -/
theorem Exc.args_table (x : Exc) (s : State) :
    (x.args s).cause = x.code ∧ (x.args s).tlbMiss = x.isTlbMiss ∧ (x.args s).perm = x.isPerm ∧ (x.args s).bad = x.isBad
    ∧ (x.args s).data = (x.dataAddr.isSome && x.code != 17#5)
    ∧ (x.args s).eccFatal = if 18 ≤ x.code.toNat then some (decide (x.code = 20#5)) else none := by
  cases x <;> exact ⟨rfl, rfl, rfl, rfl, rfl, rfl⟩

/-- An exception of a TLB miss or of a permission passes on the faulting address. -/
theorem Exc.args_vaddr (s : State) (h : (x.isTlbMiss || x.isPerm) = true) : (x.args s).vaddr = x.faultAddr s.pc := by
  cases x <;> first | rfl | cases h

theorem Exc.args_badaddr_data {a : Word} (s : State) (h : x.dataAddr = some a) :
    (x.args s).badaddr = some (badDataAddr s.cfg a) := by
  cases x <;> first | exact congrArg (Option.map (badDataAddr s.cfg)) h | cases h

theorem Exc.args_badaddr_none (s : State) (hd : x.dataAddr = none) (ht : ∀ a, x ≠ .misalignedDest a) :
    (x.args s).badaddr = none := by
  cases x
  case misalignedDest a => exact absurd rfl (ht a)
  all_goals first | rfl | cases hd

/-! ### `status` (60_exceptions.md R450, R451, R453) -/

/-- What an entry makes of `status` before the configuration has its say, `prs` being the number that PRS takes. -/
def enteredWord (prs : BitVec 6) (w : Word) : Word := setCrs 0#6 (setEh true (setU false (setPie false (setPrs prs w))))

/-- PRS after an entry. -/
def enteredPrs (c : Config) (w : Word) : BitVec 6 := if c.mmu = false ∨ stEh w = false then stCrs w else stPrs w

theorem entryStatus_eq (c : Config) (w : Word) : entryStatus c w = c.normStatus (enteredWord (enteredPrs c w) w) := by
  unfold entryStatus enteredPrs enteredWord
  cases c.mmu <;> cases stEh w <;> simp [setPrs, stPrs, setField_field]

theorem enteredWord_fields (prs : BitVec 6) (w : Word) :
    stPie (enteredWord prs w) = false ∧ stU (enteredWord prs w) = false ∧ stCrs (enteredWord prs w) = 0#6
    ∧ stEh (enteredWord prs w) = true ∧ stPrs (enteredWord prs w) = prs ∧ stRsie (enteredWord prs w) = stRsie w
    ∧ stNmi (enteredWord prs w) = stNmi w ∧ stIl (enteredWord prs w) = stIl w ∧ stIh (enteredWord prs w) = stIh w := by
  simp (disch := omega) only [stPie, stU, stCrs, stEh, stPrs, stRsie, stNmi, stIl, stIh, enteredWord, setCrs, setPrs, setEh, setU,
    setPie, bit_setField_other, bit_setBit_other, bit_setBit_same, field_setField_same, field_setField_other, field_setBit_other,
    and_self]

/-- A word that a status register holds has no more of CRS and NMI than the configuration implements. -/
theorem statusFields_self_set (h : c.normStatus w = w) :
    implementedSet c (stCrs w) = stCrs w ∧ (c.eic && stNmi w) = stNmi w := by
  rw [← c.stCrs_normStatus, ← c.stNmi_normStatus, h]
  exact ⟨rfl, rfl⟩

theorem implementedSet_zero (c : Config) : implementedSet c 0#6 = 0#6 := by rw [← and_setNumberMask, BitVec.zero_and]

theorem implementedSet_enteredPrs (h : c.normStatus w = w) : implementedSet c (enteredPrs c w) = enteredPrs c w := by
  unfold enteredPrs
  split
  · exact (statusFields_self_set h).1
  · exact (statusFields_self h).prs.symm

/-- Settles O30: `status` is a word put in the form that a status register holds, the saves are those of `saveForEntry`. -/
theorem entryStatusAndSaves : Obligations.EntryStatusAndSaves := by
  intro s x
  refine ⟨fun ⟨hs, _⟩ => ?status, State.take_saves x, fun heh => ?nothing⟩
  case status =>
    have old := statusFields_self hs
    have new := statusFields_normStatus s.cfg (enteredWord (enteredPrs s.cfg s.status) s.status)
    obtain ⟨pie, u, crs, eh, prs, rsie, nmi, il, ih⟩ := enteredWord_fields (enteredPrs s.cfg s.status) s.status
    rw [State.take_status, entryStatus_eq, new.pie, new.u, new.eh, new.prs, new.rsie, new.il, new.ih, new.reserved,
      s.cfg.stCrs_normStatus, s.cfg.stNmi_normStatus, pie, u, crs, eh, prs, rsie, nmi, il, ih, implementedSet_enteredPrs hs,
      implementedSet_zero, (statusFields_self_set hs).2, ← old.rsie, ← old.il, ← old.ih, Bool.and_false, Bool.and_true]
    exact ⟨rfl, rfl, rfl, rfl, rfl, rfl, rfl, rfl, rfl, rfl⟩
  case nothing =>
    have kept : s.saveForEntry s.nextPc = s := if_pos heh
    rw [State.take, State.nonbreakEntry_only, kept, heh]
    exact ⟨rfl, rfl, rfl, rfl, rfl, rfl⟩

/-! ### Vector and cause (60_exceptions.md R432, R457) -/

theorem State.take_pc (s : State) (x : Exc) : (s.take x).pc =
    if x.isTlbMiss = true ∧ stEh s.status = false then vectorOf s.cfg s.cfg.fastTlbMissAddr
    else vectorOf s.cfg s.cfg.exceptionAddr := by
  obtain ⟨-, miss, -⟩ := x.args_table s
  rw [State.take, State.nonbreakEntry_only, entryVector, miss, vector_eq_vectorOf]
  cases x.isTlbMiss <;> cases stEh s.status <;> rfl

@[simp] theorem State.saveForEntry_badaddr (s : State) (ret : Word) : (s.saveForEntry ret).badaddr = s.badaddr := by
  unfold State.saveForEntry
  split <;> simp

@[simp] theorem State.mmuOnEntry_badaddr (s : State) (x : EntryArgs) (eh : Bool) : (s.mmuOnEntry x eh).badaddr = s.badaddr := by
  unfold State.mmuOnEntry
  split <;> rfl

@[simp] theorem State.causeOnEntry_badaddr (s : State) (x : EntryArgs) :
    (s.causeOnEntry x).badaddr = if s.cfg.isF then x.badaddr.getD s.badaddr else s.badaddr := by
  unfold State.causeOnEntry
  split
  · cases x.badaddr <;> rfl
  · rfl

@[simp] theorem State.eehOnEntry_badaddr (s : State) (x : EntryArgs) (eh : Bool) : (s.eehOnEntry x eh).badaddr = s.badaddr := by
  unfold State.eehOnEntry
  split <;> rfl

theorem State.take_badaddr (s : State) (x : Exc) :
    (s.take x).badaddr = if s.cfg.isF then (x.args s).badaddr.getD s.badaddr else s.badaddr := by
  simp [State.take, State.nonbreakEntry]

theorem bit_exceptionOnEntry_eccftl (y : EntryArgs) (e : Word) : bit (exceptionOnEntry y e) 31 = y.eccFatal.getD (bit e 31) := by
  unfold exceptionOnEntry
  dsimp only
  split
  · next hf => rw [bit_setBit_same _ _ _ (by decide), hf]; rfl
  · next hf => rw [bit_setField_other _ _ _ _ (by decide), hf]; rfl

theorem bit_exceptionOnEntry_other (y : EntryArgs) (e : Word) {n : Nat} (hn : n < 31) (hc : n < 2 ∨ 6 < n) :
    bit (exceptionOnEntry y e) n = bit e n := by
  unfold exceptionOnEntry
  dsimp only
  split
  · rw [bit_setBit_other _ _ _ _ (by omega), bit_setField_other _ _ _ _ (by omega)]
  · rw [bit_setField_other _ _ _ _ (by omega)]

theorem and_lowMask (w : Word) (n : Nat) : w &&& lowMask n = BitVec.ofNat 32 (w.toNat % 2 ^ n) := and_ofNat_mask w n

/-- Bit 31 as 0. -/
theorem and_bypass (w : Word) : w &&& 0x7FFFFFFF#32 = BitVec.ofNat 32 (w.toNat % 2 ^ 31) := and_ofNat_mask w 31

/-- The width of `badaddr` for a data address (10_state.md R60): without an MPU the address bits that the core implements, of which bit
31 is none where it selects the cache bypass. -/
theorem badDataAddr_eq (c : Config) (a : Word) : badDataAddr c a =
    if c.mmu then a else if c.mpu then BitVec.ofNat 32 (a.toNat % (if c.bypass31 then 2 ^ 31 else 2 ^ 32))
    else BitVec.ofNat 32 (a.toNat % 2 ^ c.daddrWidth) := by
  unfold badDataAddr
  split
  · rfl
  · cases hb : c.bypass31
    · simp only [Bool.false_eq_true, if_false, and_lowMask, Nat.mod_eq_of_lt a.isLt, BitVec.ofNat_toNat, BitVec.setWidth_eq]
    · have narrow : c.daddrWidth ≤ 31 := by
        rw [Config.daddrWidth, hb]
        exact Nat.min_le_left _ _
      have low : a.toNat % 2 ^ 31 < 2 ^ 32 := by omega
      simp only [if_true, and_bypass, and_lowMask, BitVec.toNat_ofNat, Nat.mod_eq_of_lt low,
        Nat.mod_mod_of_dvd _ (Nat.pow_dvd_pow 2 narrow)]

theorem badDestAddr_eq (c : Config) (a : Word) :
    badDestAddr c a = if c.mmu || c.mpu then a else BitVec.ofNat 32 (a.toNat % 2 ^ c.iaddrWidth) := by
  unfold badDestAddr
  rw [and_lowMask]

/-- Settles O31: the equation of each of the three fields. -/
theorem entryVectorAndCause : Obligations.EntryVectorAndCause := by
  intro s x
  obtain ⟨cause, -, -, -, -, fatal⟩ := x.args_table s
  refine ⟨s.take_pc x, fun hf => ⟨?_, ?_⟩, fun hf => ⟨?_, ?_, fun n hn hc => ?_, fun a ha => ?_, fun a ha => ?_, fun hd ht => ?_⟩⟩
  · rw [State.take_exception, if_neg (Bool.eq_false_iff.1 hf)]
  · rw [State.take_badaddr, if_neg (Bool.eq_false_iff.1 hf)]
  · rw [State.take_exception, if_pos hf, field_cause_exceptionOnEntry, cause]
  · rw [State.take_exception, if_pos hf, bit_exceptionOnEntry_eccftl, fatal]
    split <;> rfl
  · rw [State.take_exception, if_pos hf, bit_exceptionOnEntry_other _ _ hn hc]
  · rw [State.take_badaddr, if_pos hf, Exc.args_badaddr_data s ha]
    exact badDataAddr_eq s.cfg a
  · rw [State.take_badaddr, if_pos hf, ha]
    exact badDestAddr_eq s.cfg a
  · rw [State.take_badaddr, if_pos hf, Exc.args_badaddr_none s hd ht]
    rfl

/-! ### The fields of the MMU (60_exceptions.md R454) -/

theorem State.take_mmuFields (s : State) (x : Exc) :
    (s.take x).pteaddr = ((s.saveForEntry s.nextPc).mmuOnEntry (x.args s) (stEh s.status)).pteaddr
    ∧ (s.take x).tlbmisc = ((s.saveForEntry s.nextPc).mmuOnEntry (x.args s) (stEh s.status)).tlbmisc := by
  unfold State.take State.nonbreakEntry State.eehOnEntry State.causeOnEntry
  split <;> split <;> exact ⟨rfl, rfl⟩

theorem State.take_pteaddr (s : State) (x : Exc) : (s.take x).pteaddr =
    if s.cfg.mmu = true ∧ stEh s.status = false ∧ (x.isTlbMiss || x.isPerm) = true then
      setField s.pteaddr 2 20 (field (x.faultAddr s.pc) 12 20) else s.pteaddr := by
  obtain ⟨-, miss, perm, -⟩ := x.args_table s
  have same : (s.saveForEntry s.nextPc).pteaddr = s.pteaddr := by
    unfold State.saveForEntry
    split <;> simp
  rw [(s.take_mmuFields x).1, State.mmuOnEntry, State.saveForEntry_cfg, miss, perm]
  cases hm : s.cfg.mmu
  · simpa using same
  · cases heh : stEh s.status
    · cases hv : x.isTlbMiss || x.isPerm
      · simpa [hv] using same
      · simp [same, Exc.args_vaddr s hv]
    · simpa using same

theorem State.take_tlbmisc (s : State) (x : Exc) :
    (s.take x).tlbmisc = if s.cfg.mmu then tlbmiscOnEntry (x.args s) (stEh s.status) s.tlbmisc else s.tlbmisc := by
  have same : (s.saveForEntry s.nextPc).tlbmisc = s.tlbmisc := by
    unfold State.saveForEntry
    split <;> simp
  rw [(s.take_mmuFields x).2, State.mmuOnEntry, State.saveForEntry_cfg]
  split
  · rw [← same]
  · exact same

/-- `tlbmisc` after an entry, bit by bit. -/
theorem bit_tlbmiscOnEntry (y : EntryArgs) (eh : Bool) (t : Word) (n : Nat) : bit (tlbmiscOnEntry y eh t) n =
    if n = 18 then bit t 18 || (y.perm || (y.tlbMiss && !eh))
    else if n = 0 then y.data
    else if n = 3 then y.tlbMiss && eh
    else if n = 2 then if eh then bit t 2 else y.bad
    else if n = 1 then if eh then bit t 1 else y.perm
    else bit t n := by
  have we : ∀ u : Word, bit (if y.perm || (y.tlbMiss && !eh) then setBit u 18 true else u) n =
      if n = 18 then bit u 18 || (y.perm || (y.tlbMiss && !eh)) else bit u n := by
    intro u
    cases y.perm || (y.tlbMiss && !eh)
    · by_cases h : n = 18 <;> simp [h]
    · by_cases h : n = 18 <;> simp [h, bit_setBit u 18 n true (by decide), bit_setBit u 18 18 true (by decide)]
  unfold tlbmiscOnEntry
  rw [we]
  simp (disch := omega) only [bit_setBit]
  cases eh
  · simp (disch := omega) only [bit_setBit, Bool.false_eq_true, if_false]
    by_cases h : n = 18
    · simp [h]
    · simp only [h, if_false]
  · by_cases h : n = 18
    · simp [h]
    · by_cases h2 : n = 2
      · simp [h2]
      · by_cases h1 : n = 1 <;> simp [h, h1, h2]

/-- Settles O32: the bits of `tlbmisc` one by one, and `pteaddr` as a whole. -/
theorem entryMmuFields : Obligations.EntryMmuFields := by
  intro s x
  obtain ⟨-, miss, perm, bad, data, -⟩ := x.args_table s
  refine ⟨fun hm => ⟨?_, ?_⟩, fun hm => ⟨?_, ?_⟩⟩
  · rw [State.take_pteaddr, if_neg fun h => Bool.eq_false_iff.1 hm h.1]
  · rw [State.take_tlbmisc, if_neg (Bool.eq_false_iff.1 hm)]
  · rw [State.take_pteaddr, setField_vpn]
    simp only [hm, true_and]
    rfl
  · rw [State.take_tlbmisc, if_pos hm]
    simp only [bit_tlbmiscOnEntry, miss, perm, bad, data]
    refine ⟨rfl, rfl, rfl, rfl, by simp [Bool.or_assoc], fun n _ hn h18 => ?_⟩
    rw [if_neg h18, if_neg (by omega), if_neg (by omega), if_neg (by omega), if_neg (by omega)]

/-! ### The frame (60_exceptions.md R431, R450, R496) -/

theorem State.saveForEntry_shadow (s : State) (ret : Word) : (s.saveForEntry ret).shadow = s.shadow := by
  unfold State.saveForEntry
  split
  · rfl
  · exact s.setGpr_normal_shadow 29#5 ret

@[simp] theorem State.saveForEntry_eccBus (s : State) (ret : Word) : (s.saveForEntry ret).eccBus = s.eccBus := by
  unfold State.saveForEntry
  split <;> simp

@[simp] theorem State.mmuOnEntry_eccBus (s : State) (x : EntryArgs) (eh : Bool) : (s.mmuOnEntry x eh).eccBus = s.eccBus := by
  unfold State.mmuOnEntry
  split <;> rfl

@[simp] theorem State.causeOnEntry_eccBus (s : State) (x : EntryArgs) : (s.causeOnEntry x).eccBus = s.eccBus := by
  unfold State.causeOnEntry
  split <;> rfl

/-- The EEH signal (60_exceptions.md R496). -/
@[simp] theorem State.eehOnEntry_eccBus (s : State) (x : EntryArgs) (eh : Bool) :
    (s.eehOnEntry x eh).eccBus = if x.eccFatal.isSome && eh then s.eccBus ||| 1#30 else s.eccBus := by
  unfold State.eehOnEntry
  split <;> rfl

/-- The ECC exceptions are those of the causes 18 to 22. -/
theorem State.take_eccBus (s : State) (x : Exc) :
    (s.take x).eccBus = if 18 ≤ x.code.toNat ∧ stEh s.status = true then s.eccBus ||| 1#30 else s.eccBus := by
  obtain ⟨-, -, -, -, -, fatal⟩ := x.args_table s
  have ecc : (x.args s).eccFatal.isSome = decide (18 ≤ x.code.toNat) := by
    rw [fatal]
    split <;> simp [*]
  simp [State.take, State.nonbreakEntry, ecc]

/-- Settles O33: the entry writes no other field, and the write of `ea` leaves the shadow sets and, without ECC, the ECC state. -/
theorem entryFrame : Obligations.EntryFrame := by
  intro s x
  have only := s.nonbreakEntry_only (x.args s) s.nextPc
  rw [s.saveForEntry_shadow] at only
  refine ⟨?_, fun he => ?_, s.take_eccBus x⟩
  · show s.take x = _
    rw [State.take, only]
  · show SameRfEcc s (s.take x)
    rw [State.take, only]
    unfold State.saveForEntry
    split
    · exact ⟨rfl, rfl, rfl⟩
    · exact (s.setGpr_written 0 29#5 s.nextPc s.pc (Nat.zero_le _) (by decide)).noEcc he

end Machine

end Sys2Proof

/-! ## `eret` and `bret` (O36) -/

namespace Sys2Proof.Machine

open Sys2Proof

variable {s : State} {i : Instr} {c : Config} {v w : Word}

/-- The bits that a status register takes from a word are not those of NMI and CRS. -/
theorem StatusFields.setNmi {b : Bool} (h : StatusFields c (setNmi b v) w) : StatusFields c v w := by
  obtain ⟨rsie, prs, il, ih, eh, u, pie, reserved⟩ := h
  simp (disch := omega) only [stRsie, stPrs, stIl, stIh, stEh, stU, stPie, Sys2Proof.setNmi, bit_setBit_other, field_setBit_other]
    at rsie prs il ih eh u pie
  exact ⟨rsie, prs, il, ih, eh, u, pie, reserved⟩

/-- What a return makes of a saved status word (60_exceptions.md R470, R471). -/
theorem restoredStatus_fields (c : Config) (cur saved : Word) :
    StatusFields c saved (restoredStatus c cur saved)
    ∧ stCrs (restoredStatus c cur saved) = implementedSet c (stCrs saved)
    ∧ stNmi (restoredStatus c cur saved) = (c.eic && stNmi cur && stNmi saved) := by
  have set : stCrs (setNmi (stNmi cur && stNmi saved) saved) = stCrs saved := field_setBit_other _ _ _ _ _ (by omega)
  have nmi : stNmi (setNmi (stNmi cur && stNmi saved) saved) = (stNmi cur && stNmi saved) := bit_setBit_same _ _ _ (by omega)
  refine ⟨(statusFields_normStatus c _).setNmi, ?_, ?_⟩
  · rw [restoredStatus, c.stCrs_normStatus, set]
  · rw [restoredStatus, c.stNmi_normStatus, nmi, Bool.and_assoc]

/-- The instruction returns to `target` with the saved status word, or ends at a misaligned target before it restores anything. -/
def Returns (i : Instr) (s : State) (target saved : Word) (debug : Bool) : Prop :=
  if target.toNat % 4 = 0 then
    ∃ t, exec i s = .next t
      ∧ t = { s with pc := target, status := t.status, debugMode := debug, prefetched := [], eccinjOld := 0#32 }
      ∧ StatusFields s.cfg saved t.status ∧ stCrs t.status = implementedSet s.cfg (stCrs saved)
      ∧ stNmi t.status = (s.cfg.eic && stNmi s.status && stNmi saved)
  else Misaligned i s target

theorem returns_of_transfer {target saved : Word} {debug : Bool} (h : exec i s = transfer target
    { s.pipelineFlushed with status := restoredStatus s.cfg s.status saved, debugMode := debug } s) :
    Returns i s target saved debug := by
  unfold Returns
  split
  · next ha => exact ⟨_, h.trans (transfer_aligned _ s ha), rfl, restoredStatus_fields s.cfg s.status saved⟩
  · next hm => exact misaligned_of_transfer h hm

/-- Settles O36: both returns are transfers, `eret` from the current set, whose saved word is `estatus` or `sstatus`. -/
theorem returnResults : Obligations.ReturnResults := by
  refine ⟨coded_wordR rfl, coded_wordR rfl, fun s hU => ?_⟩
  have eret : exec .eret s = transfer (s.reg 29#5)
      { s.pipelineFlushed with status := restoredStatus s.cfg s.status s.savedStatus, debugMode := s.debugMode } s :=
    supervisorOnly_supervisor hU _
  refine ⟨fun h0 => ?normal, fun h0 => ?shadow, returns_of_transfer (supervisorOnly_supervisor hU _)⟩
  case normal =>
    rw [State.savedStatus, if_pos h0, State.reg, h0] at eret
    exact returns_of_transfer eret
  case shadow =>
    rw [State.savedStatus, if_neg h0] at eret
    exact returns_of_transfer eret

end Sys2Proof.Machine

/-! ## The boundary (O23, O26, O41)

One equation for each event that a boundary may take, and the instruction after them. -/

namespace Sys2Proof.Machine

open Sys2Proof

variable {s s1 : State} {i : Instr} {f : Fetched}

/-! ### The events (60_exceptions.md R440) -/

theorem step_reset (h : s.resetPin = true) : step s = .next (State.resetAll { s with eccBus := 0#30 }) := if_pos h

/-- Beyond the `reset` input and U2 a boundary looks at the debug module's request, then at `cpu_resetrequest`, then at the rest. -/
theorem step_running (hr : s.resetPin = false) (hm : (s.cfg.hasEh && s.cfg.hasU && stEh s.status && stU s.status) = false) :
    step s = if s.breakPending then .next { State.breakEntry { s with eccBus := 0#30 } with hwBreak := false }
      else if s.cpuResetPending then .next (State.resetCore { s with eccBus := 0#30 })
      else writebackOr { s with eccBus := 0#30 } interruptOrRun :=
  (if_neg (Bool.eq_false_iff.1 hr)).trans (if_neg (Bool.eq_false_iff.1 hm))

theorem step_unbroken (h : s.Unbroken) : step s = interruptOrRun { s with eccBus := 0#30 } := by
  obtain ⟨hr, hm, hb, hc, hw⟩ := h
  rw [step_running hr hm, if_neg (Bool.eq_false_iff.1 hb), if_neg (Bool.eq_false_iff.1 hc)]
  exact if_neg (Bool.eq_false_iff.1 hw)

/-- An asserted input that is enabled. -/
theorem irq_enabled_iff (x y : Word) : (x &&& y != 0#32) = true ↔ ∃ n, n < 32 ∧ bit x n = true ∧ bit y n = true := by
  rw [bne_iff_ne, ne_eq, ← not_iff_not, not_not]
  constructor
  · rintro h ⟨n, -, hx, hy⟩
    have both := bit_and x y n
    rw [h, hx, hy] at both
    exact absurd both (by simp [bit])
  · intro h
    apply BitVec.eq_of_getLsbD_eq
    intro n hn
    rw [BitVec.getLsbD_and, BitVec.getLsbD_zero]
    exact Bool.eq_false_iff.2 fun hb => h ⟨n, hn, (Bool.and_eq_true _ _).mp hb⟩

theorem internalPending_iff : s.internalPending = true ↔ s.cfg.eic = false ∧ stPie s.status = true
    ∧ ∃ n, n < 32 ∧ bit s.irq n = true ∧ bit s.ienable n = true := by
  rw [State.internalPending, Bool.and_eq_true, Bool.and_eq_true, irq_enabled_iff, Bool.not_eq_true', and_assoc]

theorem externalPending_iff : s.externalPending = true ↔ s.cfg.eic = true ∧ s.ExternalTaken := by
  simp only [State.externalPending, State.ExternalTaken, Bool.and_eq_true, Bool.or_eq_true, bne_iff_ne, decide_eq_true_eq,
    Bool.not_eq_true', beq_iff_eq, and_assoc, or_assoc]

theorem interruptOrRun_internal (h : s.internalPending = true) : interruptOrRun s = .next (s.take .internalInterrupt) := if_pos h

theorem internalPending_eic (h : s.cfg.eic = true) : s.internalPending = false := by simp [State.internalPending, h]

theorem interruptOrRun_external (h : s.externalPending = true) : interruptOrRun s = takeExternal s := by
  have inner : s.internalPending = false := internalPending_eic (externalPending_iff.1 h).1
  exact (if_neg (Bool.eq_false_iff.1 inner)).trans (if_pos h)

theorem interruptOrRun_none (hi : s.internalPending = false) (he : s.externalPending = false) : interruptOrRun s = fetchAndRun s :=
  (if_neg (Bool.eq_false_iff.1 hi)).trans (if_neg (Bool.eq_false_iff.1 he))

/-- Settles O26: each event under the negation of those before it. -/
theorem eventOrder : Obligations.EventOrder := by
  intro s
  refine ⟨step_reset, fun hr hm => (if_neg (Bool.eq_false_iff.1 hr)).trans (if_pos hm), fun hr hm => ⟨fun hd hp hq => ?hardwareBreak,
    fun hb => ⟨fun hc hq hp => ?cpuReset, fun hc => ⟨fun hw => ?writeback, fun hw => ?_⟩⟩⟩⟩
  case hardwareBreak =>
    have pending : s.breakPending = true := by
      rw [State.breakPending, hd, hp]
      simpa using hq
    exact (step_running hr hm).trans (if_pos pending)
  case cpuReset =>
    have pending : s.cpuResetPending = true := by rw [State.cpuResetPending, hc, hq, hp]; rfl
    rw [step_running hr hm, if_neg (Bool.eq_false_iff.1 hb), if_pos pending]
  case writeback =>
    rw [step_running hr hm, if_neg (Bool.eq_false_iff.1 hb), if_neg (Bool.eq_false_iff.1 hc)]
    exact if_pos hw
  have unbroken : s.Unbroken := ⟨hr, hm, hb, hc, hw⟩
  have run := step_unbroken unbroken
  refine ⟨fun he hpie hn => ?internal, fun he ht => ?external, fun hi he => ?instruction⟩
  case internal => exact run.trans (interruptOrRun_internal (internalPending_iff.2 ⟨he, hpie, hn⟩))
  case external => exact run.trans (interruptOrRun_external (externalPending_iff.2 ⟨he, ht⟩))
  case instruction => exact run.trans (interruptOrRun_none hi he)

/-! ### The instruction (60_exceptions.md R441) -/

theorem runWord_decoded {rest : List Byte} (h : decode (bytesOfWord f.word) = .ok (i, rest)) (s : State) :
    runWord f s = runDecoded i f s := by
  rw [runWord, h]

theorem runWord_decode_error {e : DecodeError} (h : decode (bytesOfWord f.word) = .error e) (s : State) :
    runWord f s = runUndecoded f s := by
  rw [runWord, h]

/-- A source register that stops ends the step, whatever the fetch found (60_exceptions.md R441 rank 6). -/
theorem runDecoded_stop {r : Result} (h : readSources (sources i s) s = .stop r) : runDecoded i f s = r := by
  rw [runDecoded, h]
  rfl

/-- A late exception of the fetch, once the sources are read (60_exceptions.md R441 ranks 7 and 8). -/
theorem runDecoded_late {x : LateExc} (h : readSources (sources i s) s = .ok () s1) (hl : f.late = some x) :
    runDecoded i f s = .next (s1.takeLate x) := by
  rw [runDecoded, h, hl]
  rfl

/-- A word with other constant fields, where the configuration does not run it (30_encoding.md R212, U27). -/
theorem runDecoded_refused (h : readSources (sources i s) s = .ok () s1) (hl : f.late = none)
    (hc : (canonical i f.word || s1.cfg.nonCanonicalRuns) = false) : runDecoded i f s = .refused .nonCanonicalWord := by
  rw [runDecoded, h, hl]
  exact if_neg (Bool.eq_false_iff.1 hc)

theorem runUndecoded_late {x : LateExc} (hl : f.late = some x) (s : State) : runUndecoded f s = .next (s.takeLate x) := by
  rw [runUndecoded, hl]

theorem step_fetched (hq : s.Quiet) (hset : s.SetImplemented) (h : fetch { s with eccBus := 0#30 } = .ok f s1) :
    step s = runWord f s1 := by
  rw [step_quiet hq hset, h]
  rfl

/-- Settles O23: the fetch, then one equation for each way in which a word is run. -/
theorem stepRunsDecoded : Obligations.StepRunsDecoded := by
  intro s hq hset
  refine ⟨fun r hr => ?_, fun f s1 hf => ⟨fun i rest hd => ?decoded, fun e x hd hl => ?undecoded⟩⟩
  · rw [step_quiet hq hset, hr]
    rfl
  case decoded =>
    rw [step_fetched hq hset hf, runWord_decoded hd]
    exact ⟨fun r => runDecoded_stop, fun s2 h2 => ⟨fun x => runDecoded_late h2, runDecoded_exec h2, runDecoded_refused h2⟩⟩
  case undecoded => rw [step_fetched hq hset hf, runWord_decode_error hd, runUndecoded_late hl]

/-! ### Reset (70_reset_and_hazards.md R520, R522) -/

/-- What both kinds of reset leave, memory and its marks apart. -/
theorem resetCore_leaves (s : State) (mem : Memory) (marks : List (Nat × EccMark)) :
    let v := vectorOf s.cfg s.cfg.resetAddr
    let t := { s.resetCore with mem := mem, tcmEcc := marks }
    t.status = 0x00800000#32 ∧ t.pc = v ∧ bit t.config 0 = false ∧ bit t.config 2 = false
    ∧ (t.iline (v.toNat / 32 % (s.cfg.icacheSize / 32))).valid = false
    ∧ t.getGpr 0 0#5 = 0#32 ∧ t.prefetched = [] ∧ t.readAhead = [] ∧ t.cfg = s.cfg
    ∧ t.irq = s.irq ∧ t.resetPin = s.resetPin ∧ t.cpuResetRequest = s.cpuResetRequest ∧ t.resetReq = s.resetReq
    ∧ t.hwBreak = s.hwBreak ∧ t.debugReq = s.debugReq ∧ t.eic = { s.eic with ril := 0#6, rnmi := false } := by
  have vector := vector_eq_vectorOf s.cfg s.cfg.resetAddr
  have invalid (j : Nat) (ls : List CacheLine) :
      ((ls.modify j (fun l => { l with valid := false })).getD j CacheLine.invalid).valid = false := by
    rw [List.getD_eq_getElem?_getD, List.getElem?_modify_eq]
    cases ls[j]? <;> rfl
  refine ⟨rfl, vector, BitVec.getLsbD_zero, BitVec.getLsbD_zero, ?_, rfl, rfl, rfl, rfl, rfl, rfl, rfl, rfl, rfl, rfl, rfl⟩
  rw [← vector]
  exact invalid _ _

/-- Settles O41: the two resets differ in memory and its marks alone. -/
theorem resetEntry : Obligations.ResetEntry := by
  intro s
  refine ⟨fun hr => ⟨_, step_reset hr, ?_⟩, fun hr hm hb hc hq hd => ?_⟩
  · obtain ⟨status, pc, pe, eccen, line, rest⟩ := resetCore_leaves { s with eccBus := 0#30 } (Memory.ofCells (Config.freeMemory s.draws))
      (if s.cfg.ecc then freeMarks s.cfg (s.draws + 10) (tcmKeys s.cfg.itcms ++ tcmKeys s.cfg.dtcms) else [])
    exact ⟨status, pc, pe, eccen, fun _ => line, rest⟩
  · obtain ⟨-, -, order⟩ := eventOrder s
    obtain ⟨-, order⟩ := order hr hm
    obtain ⟨reset, -⟩ := order hb
    obtain ⟨status, pc, pe, eccen, line, rest⟩ := resetCore_leaves { s with eccBus := 0#30 } s.mem s.tcmEcc
    exact ⟨_, reset hc hq hd, ⟨status, pc, pe, eccen, fun _ => line, rest⟩, rfl, rfl⟩

end Sys2Proof.Machine

/-! ## Interrupts (O37, O38)

The internal interrupt is one of the exceptions. The external one saves in the set that it requests, and its `status` is again a word put
in the form that a status register holds. -/

namespace Sys2Proof

/-- Bit 31 and the rest. -/
theorem setBit_top (w : Word) (b : Bool) : setBit w 31 b = BitVec.ofBool b ++ w.extractLsb' 0 31 := by
  apply BitVec.eq_of_getLsbD_eq
  intro i hi
  rw [show (setBit w 31 b).getLsbD i = if i = 31 then b else w.getLsbD i from bit_setBit w 31 i b (by decide),
    BitVec.getLsbD_append, BitVec.getLsbD_extractLsb']
  by_cases h : i = 31
  · simp [h]
  · have low : i < 31 := by omega
    simp [h, low]

namespace Machine

variable {s t : State} {q : EicRequest} {c : Config} {w : Word}

/-! ### The internal interrupt (60_exceptions.md R442, R456) -/

/-- Settles O37: what the interrupt leaves is what every exception leaves, for its cause. -/
theorem internalInterrupts : Obligations.InternalInterrupts := by
  intro s hb heic hs
  have run := step_unbroken hb
  let s0 : State := { s with eccBus := 0#30 }
  refine ⟨fun ⟨hpie, hn⟩ => ?taken, fun hn => ?instruction⟩
  case taken =>
    obtain ⟨status, saves, -⟩ := entryStatusAndSaves s0 .internalInterrupt
    obtain ⟨pie, -, -, -, -, -, nmi, il, ih, -⟩ := status hs
    obtain ⟨-, -, reports⟩ := entryVectorAndCause s0 .internalInterrupt
    obtain ⟨-, mmu⟩ := entryMmuFields s0 .internalInterrupt
    obtain ⟨frame, -, -⟩ := entryFrame s0 .internalInterrupt
    refine ⟨_, run.trans (interruptOrRun_internal (internalPending_iff.2 ⟨heic, hpie, hn⟩)), rfl, State.take_pc_general rfl, pie,
      fun hf => (reports hf).1, fun heh => ?_, fun hm => ?_, ih, il, nmi, (congrArg State.irq frame).trans rfl,
      (congrArg State.ienable frame).trans rfl⟩
    · obtain ⟨estatus, ea⟩ := saves heh
      exact ⟨estatus, { ea with }⟩
    · obtain ⟨-, d, perm, bad, dbl, -⟩ := mmu hm
      refine ⟨d, dbl, fun heh => ?_⟩
      have outside : ¬ stEh s0.status = true := Bool.eq_false_iff.1 heh
      rw [perm, bad, if_neg outside, if_neg outside]
      exact ⟨rfl, rfl⟩
  case instruction =>
    refine run.trans (interruptOrRun_none (Bool.eq_false_iff.2 fun h => hn (internalPending_iff.1 h).2) ?_)
    exact Bool.eq_false_iff.2 fun h => Bool.eq_false_iff.1 heic (externalPending_iff.1 h).1

/-! ### `status` after an external interrupt (60_exceptions.md R455) -/

/-- What an external interrupt makes of `status` before the configuration has its say. -/
def interruptWord (q : EicRequest) (pie : Bool) (prs : BitVec 6) (w : Word) : Word :=
  setPie pie (setCrs q.rrs (setIl q.ril (setNmi q.rnmi (setIh true (setRsie false (setU false (setEh true (setPrs prs w))))))))

theorem interruptStatus_eq (c : Config) (w : Word) (q : EicRequest) (ani : Bool) :
    interruptStatus c w q ani = c.normStatus (interruptWord q (stPie w && !q.rnmi && ani) (enteredPrs c w) w) := by
  have keepPrs : setPrs (stPrs w) w = w := setField_field w 16 6
  have prs : (if !stEh w || !c.mmu then setPrs (stCrs w) w else w) = setPrs (enteredPrs c w) w := by
    unfold enteredPrs
    cases c.mmu <;> cases stEh w <;> simp [keepPrs]
  have keepPie (v : Word) (h : stPie v = stPie w) : v = setPie (stPie w) v := by
    have one : BitVec.ofBool (stPie v) = field v 0 1 := by
      apply BitVec.eq_of_getLsbD_eq
      intro i hi
      obtain rfl : i = 0 := by omega
      simp [stPie, bit, field]
    rw [← h, setPie, setBit, one, setField_field]
  unfold interruptStatus interruptWord
  rw [prs]
  cases hq : q.rnmi <;> cases ani
  · simp
  · simp only [Bool.not_true, Bool.or_self, Bool.false_eq_true, if_false, Bool.not_false, Bool.and_true]
    refine congrArg c.normStatus (keepPie _ ?_)
    simp (disch := omega) only [stPie, setCrs, setIl, setNmi, setIh, setRsie, setU, setEh, setPrs, bit_setField_other, bit_setBit_other]
  · simp
  · simp

theorem interruptWord_fields (q : EicRequest) (pie : Bool) (prs : BitVec 6) (w : Word) :
    stPie (interruptWord q pie prs w) = pie ∧ stU (interruptWord q pie prs w) = false ∧ stCrs (interruptWord q pie prs w) = q.rrs
    ∧ stEh (interruptWord q pie prs w) = true ∧ stPrs (interruptWord q pie prs w) = prs
    ∧ stRsie (interruptWord q pie prs w) = false ∧ stNmi (interruptWord q pie prs w) = q.rnmi
    ∧ stIl (interruptWord q pie prs w) = q.ril ∧ stIh (interruptWord q pie prs w) = true := by
  simp (disch := omega) only [stPie, stU, stCrs, stEh, stPrs, stRsie, stNmi, stIl, stIh, interruptWord, setCrs, setPrs, setEh, setU,
    setPie, setRsie, setIh, setNmi, setIl, bit_setField_other, bit_setBit_other, bit_setBit_same, field_setField_same,
    field_setField_other, field_setBit_other, and_self]

/-- A number of an existing register set fits the bits that the configuration implements (10_state.md R33). -/
theorem implementedSet_of_le {f : BitVec 6} (h : f.toNat ≤ c.shadowSets) : implementedSet c f = f := by
  unfold implementedSet
  split
  · next h0 => exact BitVec.eq_of_toNat_eq (by simp; omega)
  · next h0 =>
    have fits : f.toNat < 2 ^ (Nat.log2 c.shadowSets + 1) := Nat.lt_of_le_of_lt h Nat.lt_log2_self
    rw [Nat.mod_eq_of_lt fits, BitVec.ofNat_toNat, BitVec.setWidth_eq]

/-- `status` after an external interrupt for an existing set. -/
theorem interruptStatus_fields (h : c.normStatus w = w) (heic : c.eic = true) (hset : q.rrs.toNat ≤ c.shadowSets) (ani : Bool) :
    let v := interruptStatus c w q ani
    stCrs v = q.rrs ∧ stIl v = q.ril ∧ stNmi v = q.rnmi ∧ stIh v = true ∧ stRsie v = !c.hasRsie ∧ stU v = false ∧ stEh v = c.hasEh
    ∧ stPie v = (stPie w && !q.rnmi && ani) ∧ stPrs v = if stEh w = false ∨ c.mmu = false then stCrs w else stPrs w := by
  have new := statusFields_normStatus c (interruptWord q (stPie w && !q.rnmi && ani) (enteredPrs c w) w)
  obtain ⟨pie, u, crs, eh, prs, rsie, nmi, il, ih⟩ := interruptWord_fields q (stPie w && !q.rnmi && ani) (enteredPrs c w) w
  dsimp only
  rw [interruptStatus_eq, new.pie, new.u, new.eh, new.prs, new.rsie, new.il, new.ih, c.stCrs_normStatus, c.stNmi_normStatus, pie, u,
    crs, eh, prs, rsie, nmi, il, ih, implementedSet_enteredPrs h, implementedSet_of_le hset, heic, enteredPrs]
  refine ⟨rfl, rfl, rfl, rfl, ?_, Bool.and_false _, Bool.and_true _, rfl, ?_⟩
  · cases c.hasRsie <;> rfl
  · simp only [Or.comm]

/-! ### The saves (60_exceptions.md R455) -/

/-- A register write leaves the ECC state of the register file alone on a core without ECC. -/
theorem setGpr_sameRfEcc (s : State) (set : Nat) (r : RegIdx) (v : Word) (he : s.cfg.ecc = false) : SameRfEcc s (s.setGpr set r v) := by
  by_cases hz : set = 0 ∧ r = 0#5
  · rw [State.setGpr, if_pos hz]
    exact ⟨rfl, rfl, rfl⟩
  · have stored : ∀ w, SameRfEcc s (s.storeGpr set r w) ∧ (s.storeGpr set r w).cfg = s.cfg := fun w => by
      unfold State.storeGpr
      split <;> exact ⟨⟨rfl, rfl, rfl⟩, rfl⟩
    obtain ⟨same, cfg⟩ := stored (s.rfWord v)
    rw [State.setGpr, if_neg hz, State.rfWritten, cfg, he]
    exact same

/-- A register that is written asks for no further injection (10_state.md R68). -/
theorem setGpr_injected {set : Nat} {r : RegIdx} (v : Word) (he : s.cfg.ecc = true) (hz : ¬ (set = 0 ∧ r = 0#5)) :
    field (s.setGpr set r v).eccinj 0 2 = 0#2 := by
  rw [s.setGpr_eccinj set r v hz, he]
  exact field_setField_same _ _ _ (by decide)

/-- Where no injection is asked for, a register's RAM holds what is written to it. -/
theorem rfWord_uninjected (v : Word) (h : s.cfg.ecc = true → field s.eccinj 0 2 = 0#2) : s.rfWord v = v := by
  cases he : s.cfg.ecc
  · exact s.rfWord_noEcc v he
  · have none : s.injectedCount injRf = 0 := by
      have zero : field s.eccinj injRf 2 = 0#2 := h he
      rw [State.injectedCount, he, zero]
      rfl
    simp [State.rfWord, State.injectedBits, none]

/-- The two saves in a shadow set. -/
def State.savedInShadow (s : State) (q : EicRequest) : State :=
  (s.setGpr q.rrs.toNat 30#5 (sstatusWord s.status q.rrs)).setGpr q.rrs.toNat 29#5 s.nextPc

theorem saveForInterrupt_handler (h : stEh s.status = true) : s.saveForInterrupt q = s := if_pos h

theorem saveForInterrupt_normal (h : stEh s.status = false) (h0 : q.rrs = 0#6) :
    s.saveForInterrupt q = { s.setGpr 0 29#5 s.nextPc with estatus := s.status } :=
  (if_neg (Bool.eq_false_iff.1 h)).trans (if_pos h0)

theorem saveForInterrupt_shadow (h : stEh s.status = false) (h0 : q.rrs ≠ 0#6) : s.saveForInterrupt q = s.savedInShadow q :=
  (if_neg (Bool.eq_false_iff.1 h)).trans (if_neg h0)

theorem saveForInterrupt_only (s : State) (q : EicRequest) : s.saveForInterrupt q = { s with
    estatus := (s.saveForInterrupt q).estatus, gpr := (s.saveForInterrupt q).gpr, shadow := (s.saveForInterrupt q).shadow,
    rfEcc := (s.saveForInterrupt q).rfEcc, eccinj := (s.saveForInterrupt q).eccinj, draws := (s.saveForInterrupt q).draws } := by
  unfold State.saveForInterrupt
  split
  · rfl
  · split
    · rw [s.setGpr_only]
    · rw [State.setGpr_only (s.setGpr _ _ _), s.setGpr_only]

theorem saveForInterrupt_sameRfEcc (q : EicRequest) (he : s.cfg.ecc = false) : SameRfEcc s (s.saveForInterrupt q) := by
  unfold State.saveForInterrupt
  split
  · exact ⟨rfl, rfl, rfl⟩
  · split
    · exact setGpr_sameRfEcc s 0 29#5 s.nextPc he
    · obtain ⟨marks, inj, draws⟩ := setGpr_sameRfEcc s q.rrs.toNat 30#5 (sstatusWord s.status q.rrs) he
      obtain ⟨marks', inj', draws'⟩ := setGpr_sameRfEcc (s.setGpr q.rrs.toNat 30#5 (sstatusWord s.status q.rrs))
        q.rrs.toNat 29#5 s.nextPc ((s.setGpr_cfg _ _ _).symm ▸ he)
      exact ⟨marks'.trans marks, inj'.trans inj, draws'.trans draws⟩

/-- What the two saves in an existing shadow set leave: an injection that waits is in `sstatus`, the first register written. -/
theorem savedInShadow_regs (h0 : q.rrs ≠ 0#6) (hset : q.rrs.toNat ≤ s.shadow.length) :
    (s.savedInShadow q).estatus = s.estatus
    ∧ (s.savedInShadow q).getGpr q.rrs.toNat 29#5 = s.pc + 4#32
    ∧ HoldsWritten s (sstatusWord s.status q.rrs) ((s.savedInShadow q).getGpr q.rrs.toNat 30#5)
        ((s.savedInShadow q).gprMark q.rrs.toNat 30#5)
    ∧ ∀ set j, ¬ (set = q.rrs.toNat ∧ (j = 29#5 ∨ j = 30#5)) → (s.savedInShadow q).getGpr set j = s.getGpr set j := by
  have hz (r : RegIdx) : ¬ (q.rrs.toNat = 0 ∧ r = 0#5) := fun h => h0 (BitVec.toNat_inj.1 h.1)
  let u := s.setGpr q.rrs.toNat 30#5 (sstatusWord s.status q.rrs)
  have first : OneGpr s u _ _ _ := s.setGpr_oneGpr q.rrs.toNat 30#5 (sstatusWord s.status q.rrs) hset (hz _)
  have hset' : q.rrs.toNat ≤ u.shadow.length := by rw [s.setGpr_shadow_length]; exact hset
  have second : Written u { u.setGpr q.rrs.toNat 29#5 s.nextPc with pc := u.pc } _ _ _ _ :=
    u.setGpr_written q.rrs.toNat 29#5 s.nextPc u.pc hset' (hz _)
  have clean : u.rfWord s.nextPc = s.nextPc := rfWord_uninjected _ fun he =>
    setGpr_injected _ ((congrArg Config.ecc (s.setGpr_cfg _ _ _)).symm.trans he) (hz _)
  have sstatus : (s.savedInShadow q).getGpr q.rrs.toNat 30#5 = u.getGpr q.rrs.toNat 30#5 :=
    u.getGpr_setGpr_other _ _ _ _ _ (.inr (by decide))
  have mark : (s.savedInShadow q).gprMark q.rrs.toNat 30#5 = u.gprMark q.rrs.toNat 30#5 := second.marks _ (by simp)
  refine ⟨by simp [State.savedInShadow], (u.getGpr_setGpr_same _ _ _ hset' (hz _)).trans clean, ?_, fun set j hj => ?_⟩
  · rw [sstatus, mark]
    exact first.value
  · have not29 : set ≠ q.rrs.toNat ∨ j ≠ 29#5 := by
      by_cases h : set = q.rrs.toNat
      · exact .inr fun hj' => hj ⟨h, .inl hj'⟩
      · exact .inl h
    exact (u.getGpr_setGpr_other _ _ _ _ _ not29).trans (first.others _ _ fun h => hj ⟨h.1, .inr h.2⟩)

/-! ### The external interrupt -/

theorem interruptEntry_only (s : State) (q : EicRequest) : s.interruptEntry q = { s with
    pc := q.rha, status := interruptStatus s.cfg s.status q (bit s.config 1), estatus := (s.saveForInterrupt q).estatus,
    gpr := (s.saveForInterrupt q).gpr, shadow := (s.saveForInterrupt q).shadow, rfEcc := (s.saveForInterrupt q).rfEcc,
    eccinj := (s.saveForInterrupt q).eccinj, draws := (s.saveForInterrupt q).draws, prefetched := [], eccinjOld := 0#32 } := by
  rw [State.interruptEntry, saveForInterrupt_only]
  rfl

/-- Settles O38: the fields of `status` are those of `interruptStatus`, the registers those of the saves. -/
theorem externalInterrupts : Obligations.ExternalInterrupts := by
  intro s hb heic hs hshape q eh
  have run := step_unbroken hb
  have taken (h : s.ExternalTaken) : step s = takeExternal { s with eccBus := 0#30 } :=
    run.trans (interruptOrRun_external (externalPending_iff.2 ⟨heic, h⟩))
  refine ⟨fun h hset => (taken h).trans (if_neg (Nat.not_le_of_lt hset)), fun h hset => ?entered, fun h => ?instruction⟩
  case instruction =>
    exact run.trans (interruptOrRun_none (internalPending_eic heic) (Bool.eq_false_iff.2 fun he => h (externalPending_iff.1 he).2))
  case entered =>
    let s0 : State := { s with eccBus := 0#30 }
    refine ⟨_, (taken h).trans (if_pos hset), interruptEntry_only s0 q, ?_⟩
    obtain ⟨status, -⟩ := hs
    have fields := interruptStatus_fields (q := q) status heic hset (bit s.config 1)
    obtain ⟨crs, il, nmi, ih, rsie, u, seh, pie, prs⟩ := fields
    refine ⟨saveForInterrupt_sameRfEcc (s := s0) q, crs, il, nmi, ih, rsie, u, seh, pie, prs, fun heh => ?handler,
      fun heh h0 => ?normal, fun heh h0 => ?shadow⟩
    case handler =>
      have save := saveForInterrupt_handler (s := s0) (q := q) heh
      rw [State.interruptEntry, save]
      exact ⟨rfl, fun set j => rfl⟩
    case normal =>
      have save := saveForInterrupt_normal (s := s0) heh h0
      have saved := s0.setGpr_oneGpr 0 29#5 s0.nextPc (Nat.zero_le _) (by decide)
      refine ⟨congrArg State.estatus save, ?_⟩
      rw [State.interruptEntry, save]
      exact { saved with }
    case shadow =>
      have save := saveForInterrupt_shadow (s := s0) heh h0
      obtain ⟨estatus, ea, sstatus, others⟩ := savedInShadow_regs (s := s0) h0 (hshape ▸ hset)
      rw [State.interruptEntry, save]
      rw [sstatusWord, setBit_top] at sstatus
      exact ⟨estatus, ea, sstatus, others⟩

end Machine

end Sys2Proof

/-! ## NMI mode (O39)

Only the entry of an external interrupt can set `status.NMI`: an exception puts `status` in a form that keeps it, `wrctl status` cannot
write it, a return can only clear it, and nothing else writes `status`. -/

namespace Sys2Proof.Machine

open Sys2Proof

variable {s t u : State} {o : Result}

/-- No state that the answer gives is in NMI mode. -/
def NmiOff (r : Result) : Prop := ∀ t, r = .next t → stNmi t.status = false

theorem NmiOff.next (h : stNmi t.status = false) : NmiOff (.next t) := fun _ ht => by
  injection ht with ht
  exact ht ▸ h

theorem NmiOff.fault (f : Fault) : NmiOff (.fault f) := fun _ h => by cases h

theorem NmiOff.refused (r : Refusal) : NmiOff (.refused r) := fun _ h => by cases h

/-- What is put in the form of a status register is in NMI mode only if it was so before. -/
theorem stNmi_normStatus_off {c : Config} {v : Word} (h : stNmi v = false) : stNmi (c.normStatus v) = false := by
  rw [c.stNmi_normStatus, h, Bool.and_false]

/-! ### The ways to change `status` -/

theorem take_nmiOff (h : stNmi s.status = false) (x : Exc) : stNmi (s.take x).status = false := by
  obtain ⟨-, -, -, -, -, -, nmi, -⟩ := enteredWord_fields (enteredPrs s.cfg s.status) s.status
  rw [State.take_status, entryStatus_eq]
  exact stNmi_normStatus_off (nmi.trans h)

theorem NmiOff.raise (h : stNmi s.status = false) (x : Exc) : NmiOff (raise x s) := .next (take_nmiOff h x)

theorem breakEntry_nmiOff (h : stNmi s.status = false) : stNmi s.breakEntry.status = false := by
  obtain ⟨-, -, -, -, -, -, nmi, -⟩ := breakWord_fields s.status
  exact stNmi_normStatus_off (nmi.trans h)

theorem writeStatus_nmiOff (h : stNmi s.status = false) (v : Word) : stNmi (s.writeStatus v).status = false := by
  rw [writeStatus_eq]
  exact stNmi_normStatus_off ((keepSet_fields s.status v).1.trans h)

theorem writeTlbacc_status (s : State) (v : Word) : (s.writeTlbacc v).status = s.status := by
  unfold State.writeTlbacc
  dsimp only
  split
  · split
    · exact (inner_injectionDone _ injTlb).status
    · rfl
  · rfl

theorem readTlb_status (s : State) : s.readTlb.status = s.status := by
  unfold State.readTlb
  dsimp only
  split
  · split <;> rfl
  · rfl

theorem writeTlbmisc_status (s : State) (v : Word) : (s.writeTlbmisc v).status = s.status := by
  unfold State.writeTlbmisc
  dsimp only
  split
  · exact readTlb_status _
  · rfl

theorem mpuRegionWrite_status (s : State) : s.mpuRegionWrite.status = s.status := by
  unfold State.mpuRegionWrite
  dsimp only
  split <;> rfl

theorem mpuRegionRead_status (s : State) : s.mpuRegionRead.status = s.status := by
  unfold State.mpuRegionRead
  split <;> rfl

theorem writeMpuacc_status {v : Word} (h : s.writeMpuacc v = .ok () u) : u.status = s.status := by
  unfold State.writeMpuacc at h
  split at h
  · split at h
    · cases h
    · cases h; exact mpuRegionRead_status s
  · dsimp only at h
    split at h
    · cases h; exact mpuRegionWrite_status _
    · cases h; rfl

theorem writeWhen_status {p : Bool} {u' : State} (h : writeWhen p s u' = .ok () u) (hu : u'.status = s.status) : u.status = s.status := by
  unfold writeWhen at h
  split at h <;> cases h
  · exact hu
  · rfl

/-- `wrctl` cannot enter NMI mode (10_state.md R40). -/
theorem writeCtl_nmiOff {n : BitVec 5} {v : Word} (h : s.writeCtl n v = .ok () u) (hs : stNmi s.status = false) :
    stNmi u.status = false := by
  have kept (hu : u.status = s.status) : stNmi u.status = false := hu ▸ hs
  unfold State.writeCtl at h
  split at h
  · cases h; exact writeStatus_nmiOff hs v
  · cases h; exact hs
  · cases h; exact hs
  · exact kept (writeWhen_status h rfl)
  · exact kept (writeWhen_status h rfl)
  · exact kept (writeWhen_status h (writeTlbacc_status s v))
  · exact kept (writeWhen_status h (writeTlbmisc_status s v))
  · exact kept (writeWhen_status h rfl)
  · cases h; exact hs
  · exact kept (writeWhen_status h rfl)
  · split at h
    · exact kept (writeMpuacc_status h)
    · cases h; exact hs
  · cases h; exact hs

theorem flushedBy_status (s : State) (n : BitVec 5) : (s.flushedBy n).status = s.status := by
  unfold State.flushedBy
  split <;> rfl

/-- No instruction enters NMI mode: of a return it is the AND that sees to it (60_exceptions.md R471). -/
theorem exec_nmiOff (h : stNmi s.status = false) (i : Instr) : NmiOff (exec i s) := by
  intro t ht
  cases (exec_next ht).control with
  | kept hk => exact hk.status ▸ h
  | raised x hu => exact take_nmiOff (hu.status ▸ h) x
  | @wroteControl u n v hU hw => exact (congrArg stNmi (flushedBy_status u n)).trans (writeCtl_nmiOff hw h)
  | returned saved pc debug =>
    obtain ⟨-, -, nmi⟩ := restoredStatus_fields s.cfg s.status saved
    exact nmi.trans (by rw [h, Bool.and_false, Bool.false_and])
  | broke => exact breakEntry_nmiOff h

/-! ### The fetch and the instruction -/

/-- A part of an instruction that leaves NMI mode off: it goes on in a state that is not in it, or ends without entering it. -/
def Flow.NmiOff {α : Type} (m : Flow α) : Prop :=
  match m with
  | .ok _ t => stNmi t.status = false
  | .stop o => Machine.NmiOff o

theorem Flow.NmiOff.bind {α : Type} {m : Flow α} {k : α → State → Result} (hm : m.NmiOff)
    (hk : ∀ a u, stNmi u.status = false → Machine.NmiOff (k a u)) : Machine.NmiOff (m.bind k) := by
  cases m with
  | ok a u => exact hk a u hm
  | stop o => exact hm

theorem Flow.Within.nmiOff {α : Type} {m : Flow α} (hm : m.Within s) (h : stNmi s.status = false) : m.NmiOff := by
  cases m with
  | ok a u => exact (congrArg stNmi (Inner.status hm)).trans h
  | stop o =>
    rcases hm with ⟨x, u, hu, rfl⟩ | ⟨f, rfl⟩
    · exact .raise (hu.status ▸ h) x
    · exact .fault f

theorem storeGpr_status (s : State) (set : Nat) (r : RegIdx) (v : Word) : (s.storeGpr set r v).status = s.status := by
  unfold State.storeGpr
  split <;> rfl

theorem readSource_nmiOff (h : stNmi s.status = false) (r : RegRef) : (readSource r s).NmiOff := by
  unfold readSource
  split
  · exact h
  · exact (congrArg stNmi (storeGpr_status s r.1 r.2 _)).trans h
  · exact NmiOff.raise (s := s.signal 2) h _
  · exact (congrArg stNmi (storeGpr_status s r.1 r.2 _)).trans h

theorem readSources_nmiOff (h : stNmi s.status = false) (rs : List RegRef) : (readSources rs s).NmiOff := by
  induction rs generalizing s with
  | nil => exact h
  | cons r rs ih =>
    have hr := readSource_nmiOff h r
    unfold readSources
    cases hm : readSource r s with
    | ok _ u => rw [hm] at hr; exact ih hr
    | stop o => rw [hm] at hr; exact hr

theorem takeLate_nmiOff (h : stNmi s.status = false) (x : LateExc) : NmiOff (.next (s.takeLate x)) := by
  obtain ⟨x', u, hu, ht⟩ := takeLate_cases s x
  exact .next (ht ▸ take_nmiOff (hu.status ▸ h) x')

theorem runDecoded_nmiOff (h : stNmi s.status = false) (i : Instr) (f : Fetched) : NmiOff (runDecoded i f s) := by
  unfold runDecoded
  refine (readSources_nmiOff h _).bind fun _ u hu => ?_
  split
  · exact takeLate_nmiOff hu _
  · split
    · split
      · exact exec_nmiOff h i
      · exact exec_nmiOff hu i
    · exact .refused _

theorem runUndecoded_nmiOff (h : stNmi s.status = false) (f : Fetched) : NmiOff (runUndecoded f s) := by
  unfold runUndecoded
  split
  · exact takeLate_nmiOff h _
  · split
    · exact .fault _
    · rcases illegalInstruction_cases s with ⟨-, he⟩ | ⟨-, he⟩
      · exact he ▸ .raise h _
      · exact he ▸ .fault _

theorem runWord_nmiOff (h : stNmi s.status = false) (f : Fetched) : NmiOff (runWord f s) := by
  unfold runWord
  split
  · exact runDecoded_nmiOff h _ f
  · exact runUndecoded_nmiOff h f

theorem fetchAndRun_nmiOff (h : stNmi s.status = false) : NmiOff (fetchAndRun s) := by
  unfold fetchAndRun
  split
  · exact ((fetch_within s).nmiOff h).bind fun f u hu => runWord_nmiOff hu f
  · exact .fault _

/-! ### The boundary -/

theorem State.resetCore_status (s : State) : s.resetCore.status = resetStatus := rfl

theorem State.resetAll_status (s : State) : s.resetAll.status = resetStatus := rfl

theorem stNmi_resetStatus : stNmi resetStatus = false := by decide

/-- Where an external interrupt enters NMI mode. -/
theorem takeExternal_nmi (h : takeExternal s = .next t) (hn : stNmi t.status = true) : s.eic.rnmi = true ∧ t.pc = s.eic.rha := by
  unfold takeExternal at h
  split at h
  · obtain ⟨-, -, -, -, -, -, nmi, -⟩ := interruptWord_fields s.eic (stPie s.status && !s.eic.rnmi && bit s.config 1)
      (enteredPrs s.cfg s.status) s.status
    injection h with h
    have status : t.status = interruptStatus s.cfg s.status s.eic (bit s.config 1) := by rw [← h, interruptEntry_only]
    rw [status, interruptStatus_eq, Config.stNmi_normStatus, nmi, Bool.and_eq_true] at hn
    exact ⟨hn.2, by rw [← h, interruptEntry_only]⟩
  · cases h

/-- Nothing at the boundary after the writeback error enters NMI mode but an external interrupt that is taken. -/
theorem interruptOrRun_nmi (h : interruptOrRun s = .next t) (hs : stNmi s.status = false) (hn : stNmi t.status = true) :
    s.cfg.eic = true ∧ s.eic.rnmi = true ∧ s.eic.ril ≠ 0#6 ∧ t.pc = s.eic.rha := by
  have off {r : Result} (hr : NmiOff r) (hrt : r = .next t) : False := by
    rw [hr t hrt] at hn
    cases hn
  unfold interruptOrRun at h
  split at h
  · exact (off (.raise hs _) h).elim
  · split at h
    · next pending =>
      obtain ⟨eic, ril, -⟩ := externalPending_iff.1 pending
      obtain ⟨rnmi, pc⟩ := takeExternal_nmi h hn
      exact ⟨eic, rnmi, ril, pc⟩
    · exact (off (fetchAndRun_nmiOff hs) h).elim

/-- Of the events of a boundary only an interrupt that is taken enters NMI mode. -/
theorem boundary_nmi (h : boundary s = .next t) (hs : stNmi s.status = false) (hn : stNmi t.status = true) :
    s.cfg.eic = true ∧ s.eic.rnmi = true ∧ s.eic.ril ≠ 0#6 ∧ t.pc = s.eic.rha := by
  have off {r : Result} (hr : NmiOff r) (hrt : r = .next t) : False := by
    rw [hr t hrt] at hn
    cases hn
  unfold boundary writebackOr at h
  split at h
  · exact (off (.next ((congrArg stNmi s.resetAll_status).trans stNmi_resetStatus)) h).elim
  split at h
  · cases h
  split at h
  · exact (off (.next (t := { s.breakEntry with hwBreak := false }) (breakEntry_nmiOff hs)) h).elim
  split at h
  · exact (off (.next ((congrArg stNmi s.resetCore_status).trans stNmi_resetStatus)) h).elim
  split at h
  · split at h
    · exact (off (.raise (s := { s.drawn with wbError := false }) hs _) h).elim
    · exact interruptOrRun_nmi (s := s.drawn) h hs hn
  · exact interruptOrRun_nmi h hs hn

/-- Settles O39: a step is a boundary, the ECC signals of the step before cleared. -/
theorem nmiModeEnteredOnlyByNmi : Obligations.NmiModeEnteredOnlyByNmi :=
  fun s _ h => boundary_nmi (s := { s with eccBus := 0#30 }) h

end Sys2Proof.Machine

/-! ## The worked entries (O34)

Concrete states: each entry is named, and its registers are evaluated. -/

namespace Sys2Proof.Machine

open Sys2Proof

/-- The state that R459 (b) starts from: a core with an MMU, at an `ldw` whose base is in r3. -/
def tlbMissStart : State :=
  State.setGpr { State.resetOf { Config.default with hasMmu := true } with status := 0x00800003#32, pc := 0x2000#32 } 0 3#5 0x10004008#32

/-- After the fast TLB miss. -/
def fastTlbMiss : State := tlbMissStart.take (.tlbMissData 0x10004008#32)

/-- R459 (c): the handler of the fast TLB miss, at an `ldw` of its own. -/
def doubleMissStart : State := State.setGpr { fastTlbMiss with pc := 0xC0000108#32 } 0 3#5 0x80400010#32

/-- After the double TLB miss. -/
def doubleTlbMiss : State := doubleMissStart.take (.tlbMissData 0x80400010#32)

/-- Every set is full of invalid entries, so each of the two addresses misses. -/
theorem exec_tlbMissStart : exec (.ldw 2#5 3#5 0#16) tlbMissStart = .next fastTlbMiss := rfl

theorem exec_doubleMissStart : exec (.ldw 2#5 3#5 0#16) doubleMissStart = .next doubleTlbMiss := rfl

theorem fastTlbMiss_registers :
    fastTlbMiss.estatus = 0x00800003#32 ∧ fastTlbMiss.getGpr 0 29#5 = 0x2004#32 ∧ fastTlbMiss.status = 0x00800004#32
    ∧ field fastTlbMiss.pteaddr 2 20 = 0x10004#20 ∧ fastTlbMiss.tlbmisc = 0x00040001#32 ∧ fastTlbMiss.exception = 0x00000030#32
    ∧ fastTlbMiss.badaddr = 0x10004008#32 ∧ fastTlbMiss.pc = 0xC0000100#32 ∧ fastTlbMiss.getGpr 0 2#5 = 0#32 := by decide

theorem doubleTlbMiss_registers :
    doubleTlbMiss.estatus = 0x00800003#32 ∧ doubleTlbMiss.getGpr 0 29#5 = 0x2004#32 ∧ doubleTlbMiss.pteaddr = fastTlbMiss.pteaddr
    ∧ doubleTlbMiss.tlbmisc = 0x00040009#32 ∧ doubleTlbMiss.exception = 0x00000030#32 ∧ doubleTlbMiss.badaddr = 0x80400010#32
    ∧ doubleTlbMiss.status = 0x00800004#32 ∧ doubleTlbMiss.pc = 0xC0000020#32 :=
  ⟨rfl, rfl, rfl, rfl, rfl, rfl, rfl, rfl⟩

/-- R459 (d), with any `estatus`: a request for shadow set 2. -/
def shadowRequest (estatus : Word) : State :=
  { State.resetOf { Config.default with hasEic := true, numShadow := 2 } with
    status := 0x00800001#32, pc := 0x3000#32, estatus := estatus
    eic := { rha := 0x8000#32, rrs := 2#6, ril := 5#6, rnmi := false } }

theorem step_shadowRequest (estatus : Word) :
    step (shadowRequest estatus) = .next ((shadowRequest estatus).interruptEntry (shadowRequest estatus).eic) := by
  have requested : (5#6 : BitVec 6) ≠ 0#6 := by decide
  have enabled : stPie 0x00800001#32 = true := by decide
  have above : (stIl 0x00800001#32).toNat < (5#6 : BitVec 6).toNat := by decide
  have otherSet : (2#6 : BitVec 6) ≠ stCrs 0x00800001#32 := by decide
  have implemented : (2#6 : BitVec 6).toNat ≤ 2 := by decide
  have taken : (shadowRequest estatus).ExternalTaken := ⟨requested, .inr ⟨rfl, enabled, above, .inr (.inl otherSet)⟩⟩
  have unbroken : (shadowRequest estatus).Unbroken := ⟨rfl, rfl, rfl, rfl, rfl⟩
  exact (step_unbroken unbroken).trans ((interruptOrRun_external (externalPending_iff.2 ⟨rfl, taken⟩)).trans (if_pos implemented))

theorem shadowRequest_registers (estatus : Word) :
    let t := (shadowRequest estatus).interruptEntry (shadowRequest estatus).eic
    t.getGpr 2 30#5 = 0x80800001#32 ∧ t.getGpr 2 29#5 = 0x3004#32 ∧ t.status = 0x00000858#32 ∧ t.estatus = estatus
    ∧ t.exception = 0#32 ∧ t.pc = 0x8000#32 := by
  have outside : stEh 0x00800001#32 = false := by decide
  have shadow : (2#6 : BitVec 6) ≠ 0#6 := by decide
  have status : interruptStatus { Config.default with hasEic := true, numShadow := 2 } 0x00800001#32
      { rha := 0x8000#32, rrs := 2#6, ril := 5#6, rnmi := false } (bit (shadowRequest 0#32).config 1) = 0x00000858#32 := by decide
  have sstatus : sstatusWord 0x00800001#32 2#6 = 0x80800001#32 := by decide
  have regs := savedInShadow_regs (s := shadowRequest estatus) (q := (shadowRequest estatus).eic) shadow (Nat.le_refl 2)
  rw [← saveForInterrupt_shadow (s := shadowRequest estatus) outside shadow] at regs
  obtain ⟨kept, ea, ⟨saved, -⟩, -⟩ := regs
  rw [interruptEntry_only]
  exact ⟨saved.trans sstatus, ea, status, kept, rfl, rfl⟩

/-- Settles O34: the entries evaluated. -/
theorem workedEntries : Obligations.WorkedEntries := by
  refine ⟨⟨_, rfl, by decide⟩, ⟨fastTlbMiss, doubleTlbMiss, exec_tlbMissStart, ?_⟩, fun estatus =>
    ⟨_, step_shadowRequest estatus, shadowRequest_registers estatus⟩⟩
  obtain ⟨estatus, ea, status, vpn, tlbmisc, cause, badaddr, pc, r2⟩ := fastTlbMiss_registers
  exact ⟨estatus, ea, status, vpn, tlbmisc, cause, badaddr, pc, r2, exec_doubleMissStart, doubleTlbMiss_registers⟩

end Sys2Proof.Machine

/-! ## ECC errors of the register file (O50)

First what the reading of any marked RAM word does under each setting of `config`, which the other RAMs use as well. -/

namespace Sys2Proof.Machine

open Sys2Proof

variable {s t u s1 s2 : State} {i : Instr} {f : Fetched} {set : Nat} {r : RegIdx} {m : EccMark}

/-! ### What reading a marked word does (60_exceptions.md R490, R491, U25) -/

theorem eccOn_eq (he : s.cfg.ecc = true) : s.eccOn = bit s.config 2 := by rw [State.eccOn, he, Bool.true_and]

theorem eccRaises_eq (he : s.cfg.ecc = true) (on : bit s.config 2 = true) : s.eccRaises = bit s.config 3 := by
  rw [State.eccRaises, eccOn_eq he, on, Bool.true_and]

theorem eccRead_off (off : bit s.config 2 = false) (m : EccMark) : s.eccRead m = .clean := by
  have ignored : s.eccOn = false := by rw [State.eccOn, off, Bool.and_false]
  exact if_neg (Bool.eq_false_iff.1 ignored)

theorem eccRead_single (he : s.cfg.ecc = true) (on : bit s.config 2 = true) (k : Nat) : s.eccRead (.single k) = .corrected := by
  rw [State.eccRead, eccOn_eq he, on]
  rfl

theorem eccRead_fatal (he : s.cfg.ecc = true) (on : bit s.config 2 = true) (raises : bit s.config 3 = true) :
    s.eccRead .double = .fatal := by
  rw [State.eccRead, eccOn_eq he, eccRaises_eq he on, on, raises]
  rfl

theorem eccRead_garbage (he : s.cfg.ecc = true) (on : bit s.config 2 = true) (raises : bit s.config 3 = false) :
    s.eccRead .double = .garbage := by
  rw [State.eccRead, eccOn_eq he, eccRaises_eq he on, on, raises]
  rfl

/-- The cause that an exception reports on a core with ECC, which is one of those that have `exception` (10_state.md R48). -/
theorem take_cause (he : s.cfg.ecc = true) (x : Exc) : field (s.take x).exception 2 5 = x.code := by
  obtain ⟨-, -, reports⟩ := entryVectorAndCause s x
  exact (reports ((Bool.and_eq_true ..).to_iff.1 he).1).1

theorem take_eccftl (he : s.cfg.ecc = true) {x : Exc} (hx : 18 ≤ x.code.toNat) :
    bit (s.take x).exception 31 = decide (x.code = 20#5) := by
  obtain ⟨-, -, reports⟩ := entryVectorAndCause s x
  obtain ⟨-, eccftl, -⟩ := reports ((Bool.and_eq_true ..).to_iff.1 he).1
  exact eccftl.trans (if_pos hx)

/-! ### The bare store of a register -/

theorem storeGpr_only (s : State) (set : Nat) (r : RegIdx) (v : Word) :
    s.storeGpr set r v = { s with gpr := (s.storeGpr set r v).gpr, shadow := (s.storeGpr set r v).shadow } := by
  unfold State.storeGpr
  split <;> rfl

theorem noInjection : field 0#32 0 2 = 0#2 := by decide

/-- The bare store is the write of a register where no injection waits. -/
theorem getGpr_storeGpr (s : State) (r : RegIdx) (v : Word) (hz : ¬ (set = 0 ∧ r = 0#5)) (set' : Nat) (j : RegIdx) :
    (s.storeGpr set r v).getGpr set' j = (State.setGpr { s with eccinj := 0#32 } set r v).getGpr set' j := by
  have word : State.rfWord { s with eccinj := 0#32 } v = v := rfWord_uninjected v fun _ => noInjection
  have files := State.setGpr_files { s with eccinj := 0#32 } set r v hz
  rw [word] at files
  have gpr : (State.storeGpr { s with eccinj := 0#32 } set r v).gpr = (s.storeGpr set r v).gpr := by
    unfold State.storeGpr
    split <;> rfl
  have shadow : (State.storeGpr { s with eccinj := 0#32 } set r v).shadow = (s.storeGpr set r v).shadow := by
    unfold State.storeGpr
    split <;> rfl
  exact State.getGpr_congr _ _ (gpr.symm.trans files.1.symm) (shadow.symm.trans files.2.symm) set' j

theorem getGpr_storeGpr_same (v : Word) (hset : set ≤ s.shadow.length) (hz : ¬ (set = 0 ∧ r = 0#5)) :
    (s.storeGpr set r v).getGpr set r = v := by
  rw [getGpr_storeGpr s r v hz, State.getGpr_setGpr_same { s with eccinj := 0#32 } set r v hset hz]
  exact rfWord_uninjected v fun _ => noInjection

theorem getGpr_storeGpr_other (v : Word) (hz : ¬ (set = 0 ∧ r = 0#5)) {set' : Nat} {j : RegIdx} (h : ¬ (set' = set ∧ j = r)) :
    (s.storeGpr set r v).getGpr set' j = s.getGpr set' j := by
  rw [getGpr_storeGpr s r v hz, State.getGpr_setGpr_other { s with eccinj := 0#32 } set r v set' j (Decidable.not_and_iff_not_or_not.1 h)]
  rfl

/-! ### The reading of one register -/

/-- The mark that a source register is read by. -/
theorem rfMark_eq (s : State) (hz : ¬ (set = 0 ∧ r = 0#5)) : s.rfMark (set, r) = s.gprMark set r := if_neg hz

theorem rfMark_none (h : s.gprMark set r = .none) : s.rfMark (set, r) = .none := by
  rw [State.rfMark]
  split
  · rfl
  · exact h

theorem rfKey_ne {set' : Nat} {j : RegIdx} (h : ¬ (set' = set ∧ j = r)) : 32 * set' + j.toNat ≠ rfKey set r := by
  intro e
  have hj := j.isLt
  have hr := r.isLt
  unfold rfKey at e
  exact h ⟨by omega, BitVec.eq_of_toNat_eq (by omega)⟩

theorem readSource_clean {q : RegRef} (h : s.eccRead (s.rfMark q) = .clean) : readSource q s = .ok () s := by
  rw [readSource, h]

theorem readSource_fatal {q : RegRef} (h : s.eccRead (s.rfMark q) = .fatal) :
    readSource q s = .stop (.next (State.take { s with eccBus := s.eccBus ||| 4#30 } .eccRegisterFile)) := by
  rw [readSource, h]
  rfl

/-- A 1-bit error put right. -/
def State.sourceCorrected (s : State) (set : Nat) (r : RegIdx) (k : Nat) : State :=
  State.signal { s.storeGpr set r (flipWord (s.getGpr set r) k) with
    rfEcc := sparseSet EccMark.none s.rfEcc (rfKey set r) EccMark.none } 1

theorem readSource_single {k : Nat} (hz : ¬ (set = 0 ∧ r = 0#5)) (hm : s.gprMark set r = .single k) (he : s.cfg.ecc = true)
    (on : bit s.config 2 = true) : readSource (set, r) s = .ok () (s.sourceCorrected set r k) := by
  rw [readSource, rfMark_eq s hz, hm, eccRead_single he on]
  rfl

theorem sourceCorrected_only (s : State) (set : Nat) (r : RegIdx) (k : Nat) : s.sourceCorrected set r k = { s with
    gpr := (s.sourceCorrected set r k).gpr, shadow := (s.sourceCorrected set r k).shadow,
    rfEcc := (s.sourceCorrected set r k).rfEcc, eccBus := s.eccBus ||| 2#30 } := by
  unfold State.sourceCorrected
  rw [storeGpr_only]
  rfl

/-- A 2-bit error that raises nothing: the value becomes a free one. -/
def State.sourceGarbled (s : State) (set : Nat) (r : RegIdx) : State :=
  ((s.storeGpr set r (Config.freeWord s.draws)).drawn).signal 2

theorem readSource_garbage (hz : ¬ (set = 0 ∧ r = 0#5)) (hm : s.gprMark set r = .double) (he : s.cfg.ecc = true)
    (on : bit s.config 2 = true) (raises : bit s.config 3 = false) : readSource (set, r) s = .ok () (s.sourceGarbled set r) := by
  rw [readSource, rfMark_eq s hz, hm, eccRead_garbage he on raises]
  rfl

theorem sourceGarbled_only (s : State) (set : Nat) (r : RegIdx) : s.sourceGarbled set r = { s with
    gpr := (s.sourceGarbled set r).gpr, shadow := (s.sourceGarbled set r).shadow, draws := s.draws + 1,
    eccBus := s.eccBus ||| 4#30 } := by
  unfold State.sourceGarbled
  rw [storeGpr_only]
  rfl

/-! ### The reading of all sources -/

/-- The first source in error stops the reading, those before it having none. -/
theorem readSources_fatal {q : RegRef} {l : List RegRef} (hq : q ∈ l) (hf : s.eccRead (s.rfMark q) = .fatal)
    (others : ∀ p ∈ l, p ≠ q → s.gprMark p.1 p.2 = .none) :
    readSources l s = .stop (.next (State.take { s with eccBus := s.eccBus ||| 4#30 } .eccRegisterFile)) := by
  induction l with
  | nil => cases hq
  | cons p l ih =>
    by_cases hp : p = q
    · rw [readSources, hp, readSource_fatal hf]
      rfl
    · have clean : readSource p s = .ok () s :=
        readSource_clean (by rw [rfMark_none (others p (List.mem_cons_self ..) hp), State.eccRead_none])
      have rest := ih ((List.mem_cons.1 hq).resolve_left (Ne.symm hp)) fun p' h' => others p' (List.mem_cons_of_mem _ h')
      rw [readSources, clean]
      exact rest

theorem readSources_cfg {l : List RegRef} (h : readSources l s = .ok () s2) : s2.cfg = s.cfg := by
  have before := readSources_before (Before.refl s) l
  rw [h] at before
  exact (Before.toSameControl before).cfg

/-! ### Checks before any operand (46_other_control.md R391, 41_arith_logic.md R293) -/

/-- An instruction that a check before any operand ends runs on the state that the fetch leaves. -/
theorem runDecoded_trapsAtDecode (hr : readSources (sources i s) s = .ok () s2) (hl : f.late = none)
    (hc : (canonical i f.word || s.cfg.nonCanonicalRuns) = true) (ht : trapsAtDecode i s = true) :
    runDecoded i f s = exec i s := by
  rw [runDecoded_exec hr hl (readSources_cfg hr ▸ hc), if_pos ht]

theorem previousSetAccess_user {rest : Result} (hU : stU s.status = true) (h0 : s.cfg.shadowSets ≠ 0) :
    previousSetAccess s rest = .next (s.take .supervisorOnlyInstr) := by
  rw [previousSetAccess, if_neg h0]
  exact if_pos hU

/-- The supervisor-only instructions in user mode; `rdprs` and `wrprs` where there are shadow sets. -/
theorem supervisorOnly_at_decode {a b c : RegIdx} {imm16 : BitVec 16} {n : BitVec 5} (hU : stU s.status = true)
    (hi : i ∈ [.initd a imm16, .initi a, .eret, .bret, .rdctl c n, .wrctl n a]
      ∨ (s.cfg.shadowSets ≠ 0 ∧ i ∈ [.rdprs b a imm16, .wrprs c a])) :
    trapsAtDecode i s = true ∧ exec i s = .next (s.take .supervisorOnlyInstr) := by
  rcases hi with hi | ⟨h0, hi⟩
  · have supervisor (rest : Result) : supervisorOnly s rest = .next (s.take .supervisorOnlyInstr) := if_pos hU
    simp only [List.mem_cons, List.not_mem_nil, or_false] at hi
    rcases hi with rfl | rfl | rfl | rfl | rfl | rfl <;> exact ⟨hU, supervisor _⟩
  · simp only [List.mem_cons, List.not_mem_nil, or_false] at hi
    have traps : (stU s.status || s.cfg.shadowSets == 0) = true := by rw [hU, Bool.true_or]
    rcases hi with rfl | rfl <;> exact ⟨traps, previousSetAccess_user hU h0⟩

/-- The instructions that the core lacks. -/
theorem unimplemented_at_decode {a b c : RegIdx} {imm16 : BitVec 16}
    (hi : (i ∈ [.mul c a b, .muli b a imm16] ∧ ¬ (s.cfg.isF = true ∧ (s.cfg.hwMul = .mul ∨ s.cfg.hwMul = .mulx)))
      ∨ (i ∈ [.mulxss c a b, .mulxsu c a b, .mulxuu c a b] ∧ ¬ (s.cfg.isF = true ∧ s.cfg.hwMul = .mulx))
      ∨ (i ∈ [.div c a b, .divu c a b] ∧ ¬ (s.cfg.isF = true ∧ s.cfg.hwDiv = true))
      ∨ (i = .initda a imm16 ∧ ¬ (s.cfg.isF = true ∧ s.cfg.hwInitda = true))) :
    trapsAtDecode i s = true ∧ exec i s = .next (s.take .unimplemented) := by
  have lacks {p : Bool} {q : Prop} (hp : p = true ↔ q) (hq : ¬ q) : (!p) = true
      ∧ ∀ rest, whenImplemented p s rest = .next (s.take .unimplemented) := by
    have absent : ¬ p = true := fun h => hq (hp.1 h)
    exact ⟨by rw [Bool.eq_false_iff.2 absent]; rfl, fun rest => if_neg absent⟩
  simp only [List.mem_cons, List.not_mem_nil, or_false] at hi
  rcases hi with ⟨hi, hq⟩ | ⟨hi, hq⟩ | ⟨hi, hq⟩ | ⟨hi, hq⟩
  · obtain ⟨traps, raises⟩ := lacks s.cfg.mulImplemented_iff hq
    rcases hi with rfl | rfl <;> exact ⟨traps, raises _⟩
  · obtain ⟨traps, raises⟩ := lacks s.cfg.mulxImplemented_iff hq
    rcases hi with rfl | rfl | rfl <;> exact ⟨traps, raises _⟩
  · obtain ⟨traps, raises⟩ := lacks s.cfg.divImplemented_iff hq
    rcases hi with rfl | rfl <;> exact ⟨traps, raises _⟩
  · obtain ⟨traps, raises⟩ := lacks (Bool.and_eq_true ..).to_iff hq
    exact hi ▸ ⟨traps, raises _⟩

/-- Settles O50: one equation for each reading of a register, and the order of the checks. -/
theorem eccRegisterFile : Obligations.EccRegisterFile := by
  intro s set r he hcanon hset hz
  obtain ⟨-, rfWf, -⟩ := hcanon
  refine ⟨fun h => ?clean, fun k hm on => ?single, fun hm on raises => ?fatal, fun hm on raises => ?garbage,
    fun i hm on raises hi others => ?sources, fun v => ⟨s.setGpr_oneGpr set r v hset hz, setGpr_injected v he hz⟩,
    fun u f s1 i rest hq hu hf hd => ?step⟩
  case clean =>
    refine readSource_clean ?_
    rcases h with h | off
    · rw [rfMark_eq s hz, h, State.eccRead_none]
    · exact eccRead_off off _
  case single =>
    refine ⟨_, readSource_single hz hm he on, sourceCorrected_only s set r k, ?_, ?_, fun set' j h => ⟨?_, fun _ => ?_⟩⟩
    · exact getGpr_storeGpr_same _ hset hz
    · exact sparseGet_set_same _ _ _ _ rfWf
    · exact getGpr_storeGpr_other _ hz h
    · exact sparseGet_set_other _ _ _ _ _ (rfKey_ne h)
  case fatal =>
    have fatal : s.eccRead (s.rfMark (set, r)) = .fatal := by rw [rfMark_eq s hz, hm, eccRead_fatal he on raises]
    exact ⟨readSource_fatal fatal, take_cause he _, take_eccftl he (by decide)⟩
  case garbage =>
    refine ⟨_, readSource_garbage hz hm he on raises, sourceGarbled_only s set r, getGpr_storeGpr_same _ hset hz, fun set' j h => ⟨?_, fun _ => ?_⟩⟩
    · exact getGpr_storeGpr_other _ hz h
    · rw [sourceGarbled_only, State.gprMark, State.gprMark]
  case sources =>
    exact readSources_fatal hi (by rw [rfMark_eq s hz, hm, eccRead_fatal he on raises]) others
  case step =>
    have run : step u = runDecoded i f s1 := by rw [step_fetched hq hu hf, runWord_decoded hd]
    refine ⟨fun x hx => run.trans (runDecoded_stop hx), fun s2 hr hl hc a b c imm16 n => ⟨fun hU hi => ?_, fun hi => ?_⟩⟩
    · obtain ⟨traps, raises⟩ := supervisorOnly_at_decode hU hi
      exact run.trans ((runDecoded_trapsAtDecode hr hl hc traps).trans raises)
    · obtain ⟨traps, raises⟩ := unimplemented_at_decode hi
      exact run.trans ((runDecoded_trapsAtDecode hr hl hc traps).trans raises)

end Sys2Proof.Machine

/-! ## Injection and the words of a RAM (10_state.md R68, 60_exceptions.md R495) -/

namespace Sys2Proof

/-- A byte of bytes with one bit changed. -/
theorem flipBytes_getD {bs : List Byte} {k j : Nat} (hj : j < bs.length) : (Machine.flipBytes bs k).getD j 0#8 =
    if j = k / 8 then bs.getD j 0#8 ^^^ BitVec.twoPow 8 (k % 8) else bs.getD j 0#8 := by
  rw [Machine.flipBytes, List.getD_eq_getElem?_getD, List.getElem?_modify, List.getD_eq_getElem _ _ hj, List.getElem?_eq_getElem hj]
  by_cases h : j = k / 8
  · rw [if_pos h]
    simp [h]
  · rw [if_neg h]
    simp [Ne.symm h]

theorem bytesOfWord_getD (w : Word) {j : Nat} (hj : j < 4) : (bytesOfWord w).getD j 0#8 = w.extractLsb' (8 * j) 8 := by
  obtain rfl | rfl | rfl | rfl : j = 0 ∨ j = 1 ∨ j = 2 ∨ j = 3 := by omega
  all_goals rfl

/-- A wrong bit of a word is the wrong bit of one of its bytes. -/
theorem extractLsb'_flipWord (w : Word) (k : Nat) {j : Nat} (hj : j < 4) : (Machine.flipWord w k).extractLsb' (8 * j) 8 =
    if j = k / 8 then w.extractLsb' (8 * j) 8 ^^^ BitVec.twoPow 8 (k % 8) else w.extractLsb' (8 * j) 8 := by
  unfold Machine.flipWord
  apply BitVec.eq_of_getLsbD_eq
  intro i hi
  by_cases hk : k < 32
  · rw [if_pos hk]
    by_cases h : j = k / 8
    · have place : (k = 8 * j + i) ↔ (k % 8 = i) := by omega
      have inWord : 8 * j + i < 32 := by omega
      simp [h, BitVec.getLsbD_twoPow, hi, hk]
      grind
    · have elsewhere : ¬ (k = 8 * j + i) := by omega
      rw [if_neg h]
      simp [BitVec.getLsbD_twoPow, elsewhere]
  · have past : ¬ (j = k / 8) := by omega
    rw [if_neg hk, if_neg past]

theorem flipBytes_bytesOfWord (w : Word) (k : Nat) : Machine.flipBytes (bytesOfWord w) k = bytesOfWord (Machine.flipWord w k) := by
  refine List.ext_getElem (Machine.flipBytes_length _ _) fun j h1 h2 => ?_
  have hj : j < 4 := h2
  rw [← List.getD_eq_getElem _ 0#8 h1, ← List.getD_eq_getElem _ 0#8 h2, flipBytes_getD hj, bytesOfWord_getD _ hj, bytesOfWord_getD _ hj,
    extractLsb'_flipWord w k hj]

theorem foldl_flipBytes_bytesOfWord (ks : List Nat) (w : Word) :
    ks.foldl Machine.flipBytes (bytesOfWord w) = bytesOfWord (ks.foldl Machine.flipWord w) := by
  induction ks generalizing w with
  | nil => rfl
  | cons k ks ih => rw [List.foldl_cons, List.foldl_cons, flipBytes_bytesOfWord, ih]

theorem bytesOfWord_append (b0 b1 b2 b3 : Byte) : bytesOfWord (b3 ++ b2 ++ b1 ++ b0) = [b0, b1, b2, b3] := by
  have bytes (j : Nat) (hj : j < 4) : (b3 ++ b2 ++ b1 ++ b0).extractLsb' (8 * j) 8 = [b0, b1, b2, b3].getD j 0#8 := by
    obtain rfl | rfl | rfl | rfl : j = 0 ∨ j = 1 ∨ j = 2 ∨ j = 3 := by omega
    all_goals
      apply BitVec.eq_of_getLsbD_eq
      intro i hi
      simp [hi]
      grind
  refine List.ext_getElem rfl fun j h1 h2 => ?_
  have hj : j < 4 := h2
  rw [← List.getD_eq_getElem _ 0#8 h1, ← List.getD_eq_getElem _ 0#8 h2, bytesOfWord_getD _ hj, bytes j hj]

namespace Machine

variable {s t u : State} {lo w a : Nat}

/-! ### What an injection asks for -/

theorem injectedCount_eq (he : s.cfg.ecc = true) (h3 : field s.eccinj lo 2 ≠ 3#2) :
    s.injectedCount lo = (field s.eccinj lo 2).toNat := by
  rw [State.injectedCount, if_pos he, if_neg h3]

theorem injectedBits_none (he : s.cfg.ecc = true) (h : field s.eccinj lo 2 = 0#2) (w : Nat) : s.injectedBits lo w = [] := by
  have count : s.injectedCount lo = 0 := by rw [injectedCount_eq he (by rw [h]; decide), h]; rfl
  rw [State.injectedBits, count]
  rfl

/-- One wrong bit. -/
theorem injectedBits_one (he : s.cfg.ecc = true) (h : field s.eccinj lo 2 = 1#2) (hw : 0 < w) :
    ∃ k, k < w ∧ s.injectedBits lo w = [k] := by
  have count : s.injectedCount lo = 1 := by rw [injectedCount_eq he (by rw [h]; decide), h]; rfl
  rw [State.injectedBits, count]
  exact ⟨_, Nat.mod_lt _ hw, rfl⟩

/-- The second bit is drawn from the others. -/
theorem add_one_add_mod_ne {i x : Nat} (hi : i < w) (hw : 2 ≤ w) : (i + 1 + x % (w - 1)) % w ≠ i := by
  have hx : x % (w - 1) < w - 1 := Nat.mod_lt _ (by omega)
  by_cases h : i + 1 + x % (w - 1) < w
  · rw [Nat.mod_eq_of_lt h]
    omega
  · rw [Nat.mod_eq_sub_mod (by omega), Nat.mod_eq_of_lt (by omega)]
    omega

/-- Two wrong bits. -/
theorem injectedBits_two (he : s.cfg.ecc = true) (h : field s.eccinj lo 2 = 2#2) (hw : 2 ≤ w) :
    ∃ i j, i < w ∧ j < w ∧ i ≠ j ∧ s.injectedBits lo w = [i, j] := by
  have count : s.injectedCount lo = 2 := by rw [injectedCount_eq he (by rw [h]; decide), h]; rfl
  have pos : 0 < w := by omega
  rw [State.injectedBits, count]
  exact ⟨_, _, Nat.mod_lt _ pos, Nat.mod_lt _ pos, (add_one_add_mod_ne (Nat.mod_lt _ pos) hw).symm, rfl⟩

theorem injectionDone_none (h : field s.eccinj lo 2 = 0#2) : s.injectionDone lo = s := by
  rw [State.injectionDone, h]
  exact if_neg (by simp)

/-- "Hardware sets the value of the inject field to 0x0" (10_state.md R68). -/
theorem injectionDone_field (he : s.cfg.ecc = true) (hlo : lo + 2 ≤ 32) : field (s.injectionDone lo).eccinj lo 2 = 0#2 := by
  by_cases h : field s.eccinj lo 2 = 0#2
  · rw [injectionDone_none h, h]
  · have waits : (s.cfg.ecc && field s.eccinj lo 2 != 0#2) = true := by simp [he, h]
    rw [State.injectionDone, if_pos waits]
    exact field_setField_same _ _ _ hlo

/-- The other fields of `eccinj` keep their value. -/
theorem injectionDone_field_other (s : State) {lo' : Nat} (h : lo' + 2 ≤ lo ∨ lo + 2 ≤ lo') :
    field (s.injectionDone lo).eccinj lo' 2 = field s.eccinj lo' 2 := by
  unfold State.injectionDone
  split
  · exact field_setField_other _ _ _ _ _ h.symm
  · rfl

/-- The fields without a read-after-write hazard leave no old value (70_reset_and_hazards.md R543). -/
theorem injectionDone_eccinjOld (s : State) (h : injLate lo = false) : (s.injectionDone lo).eccinjOld = s.eccinjOld := by
  unfold State.injectionDone
  split
  · exact if_neg (Bool.eq_false_iff.1 h)
  · rfl

/-- An unmarked word, or any word with ECCEN = 0. -/
theorem eccRead_clean {m : EccMark} (h : m = .none ∨ bit s.config 2 = false) : s.eccRead m = .clean := by
  rcases h with rfl | off
  · exact s.eccRead_none
  · exact eccRead_off off m

theorem flipWord_lt (v : Word) {k : Nat} (h : k < 32) : flipWord v k = v ^^^ BitVec.twoPow 32 k := if_pos h

/-! ### Signals (60_exceptions.md R496) -/

theorem signal_eq (s : State) (n : Nat) : s.signal n = { s with eccBus := s.eccBus ||| BitVec.ofNat 30 (2 ^ n) } := by
  have one : BitVec.setWidth 30 (BitVec.ofBool true) <<< n = BitVec.ofNat 30 (2 ^ n) := by
    apply BitVec.eq_of_toNat_eq
    simp [Nat.shiftLeft_eq]
  rw [State.signal, one]

/-! ### Words of memory -/

/-- The word of memory at an address, the lowest address in the lowest bits (20_memory.md R107). -/
def State.ramWord (s : State) (a : Nat) : Word := s.mem.read (a + 3) ++ s.mem.read (a + 2) ++ s.mem.read (a + 1) ++ s.mem.read a

/-- Memory holds the word `w` at `a`. -/
def State.InMem (s : State) (a : Nat) (w : Word) : Prop := ∀ j, j < 4 → s.mem.read (a + j) = w.extractLsb' (8 * j) 8

theorem readBytes_eq (s : State) (a : Nat) : (List.range 4).map (fun k => s.mem.read (a + k)) = bytesOfWord (s.ramWord a) :=
  (bytesOfWord_append _ _ _ _).symm

theorem InMem.ramWord {w : Word} (h : s.InMem a w) : s.ramWord a = w := by
  have bytes : bytesOfWord (s.ramWord a) = bytesOfWord w := by
    rw [← readBytes_eq]
    exact List.map_congr_left fun k hk => h k (List.mem_range.1 hk)
  rw [← wordOfByteList_bytesOfWord (s.ramWord a), bytes, wordOfByteList_bytesOfWord]

/-- A word written where there is memory is there. -/
theorem busStore_inMem {ram : Nat → Bool} {m : Memory} (hm : m.wf = true) (hram : ∀ j, j < 4 → ram (a + j) = true) (w : Word)
    {j : Nat} (hj : j < 4) : (busStore ram m a (bytesOfWord w)).read (a + j) = w.extractLsb' (8 * j) 8 := by
  rw [busStore_written ram hm a (bs := bytesOfWord w) hj, if_pos (hram j hj), bytesOfWord_getD w hj]

theorem busBytes_word {ram : Nat → Bool} (hram : ∀ j, j < 4 → ram (a + j) = true) : busBytes ram s a 4 = bytesOfWord (s.ramWord a) :=
  (busBytes_ram ram s a 4 hram).trans (readBytes_eq s a)

theorem wordBytes_word (h4 : a % 4 = 0) : s.wordBytes a = bytesOfWord (s.ramWord a) := by
  have whole : a / 4 * 4 = a := by omega
  rw [State.wordBytes, whole]
  exact readBytes_eq s a

end Machine

end Sys2Proof

/-! ## ECC errors of the instruction cache and of tightly-coupled memory (O54) -/

namespace Sys2Proof.Machine

open Sys2Proof

variable {s t u s2 : State} {i : Instr} {f : Fetched} {va : Word} {a k : Nat} {ram : Nat → Bool} {x : Exc}

/-! ### Late exceptions of the fetch (60_exceptions.md R441, R496) -/

theorem takeLate_eccFetch (u : State) (k : Nat) :
    u.takeLate (.eccFetch k) = State.take { u with eccBus := u.eccBus ||| BitVec.ofNat 30 (2 ^ (6 + 2 * k)) } .eccFetch :=
  congrArg (State.take · .eccFetch) (signal_eq u _)

/-- A word with a late exception: the sources first, then the exception, whatever the word is. -/
theorem runWord_late_sources {l : LateExc} (hl : f.late = some l) (u : State) :
    (∀ i rest, decode (bytesOfWord f.word) = .ok (i, rest) →
      (∀ u2, readSources (sources i u) u = .ok () u2 → runWord f u = .next (u2.takeLate l))
      ∧ ∀ r, readSources (sources i u) u = .stop r → runWord f u = r)
    ∧ ∀ e, decode (bytesOfWord f.word) = .error e → runWord f u = .next (u.takeLate l) := by
  refine ⟨fun i rest hd => ?_, fun e hd => ?_⟩
  · rw [runWord_decoded hd]
    exact ⟨fun u2 hr => runDecoded_late hr hl, fun r => runDecoded_stop⟩
  · rw [runWord_decode_error hd, runUndecoded_late hl]

/-! ### The instruction cache (60_exceptions.md R491) -/

/-- A line with an error is read again. -/
theorem irefetch_error {l : CacheLine} (he : s.cfg.ecc = true) (on : bit s.config 2 = true) (h : l.tagEcc ≠ .none ∨ l.dataEcc ≠ .none) :
    s.irefetch l = true := by
  rw [State.irefetch, eccOn_eq he, on]
  rcases h with h | h <;> simp [h]

theorem isignal_eq (s : State) (l : CacheLine) : s.isignal l = { s with eccBus := s.eccBus ||| ((if l.tagEcc = .none then 0#30 else 8#30) |||
    (if l.dataEcc = .none then 0#30 else 16#30)) } := by
  unfold State.isignal
  rw [← BitVec.or_assoc]
  split <;> split <;> simp only [BitVec.or_zero] <;> rfl

theorem icacheRead_refetch (hv : (s.iline (va.toNat / 32 % (s.cfg.icacheSize / 32))).valid = true)
    (hr : s.irefetch (s.iline (va.toNat / 32 % (s.cfg.icacheSize / 32))) = true) :
    icacheRead va a s = .ok
      ((((s.isignal (s.iline (va.toNat / 32 % (s.cfg.icacheSize / 32)))).ifillBytes a).drop (a % 32)).take 4)
      ((s.isignal (s.iline (va.toNat / 32 % (s.cfg.icacheSize / 32)))).ifill (va.toNat / 32 % (s.cfg.icacheSize / 32)) a) := by
  simp only [icacheRead, lineIndex, hv, hr, Bool.not_true, Bool.and_false, Bool.false_and, Bool.and_true, Bool.false_eq_true, if_false,
    if_true]

/-- A line fill of the instruction cache, with its injections. -/
theorem ifill_changes (s : State) (i a : Nat) : s.ifill i a = { s with
    icache := (s.ifill i a).icache, prefetched := (s.ifill i a).prefetched, eccinj := (s.ifill i a).eccinj, draws := (s.ifill i a).draws } := by
  unfold State.ifill
  dsimp only
  generalize filledLine _ _ _ _ _ = l
  have filled : (busReadState s.cfg.ilineRam s (a / 32 * 32) 32).setIline i l = { s with
      icache := ((busReadState s.cfg.ilineRam s (a / 32 * 32) 32).setIline i l).icache
      prefetched := ((busReadState s.cfg.ilineRam s (a / 32 * 32) 32).setIline i l).prefetched
      draws := ((busReadState s.cfg.ilineRam s (a / 32 * 32) 32).setIline i l).draws } := by
    rw [busReadState_only]
    rfl
  have injected (v : State) : (v.injectionDone injIcTag).injectionDone injIcDat = { v with
      eccinj := ((v.injectionDone injIcTag).injectionDone injIcDat).eccinj,
      draws := ((v.injectionDone injIcTag).injectionDone injIcDat).draws } := by
    have old : ((v.injectionDone injIcTag).injectionDone injIcDat).eccinjOld = v.eccinjOld :=
      (injectionDone_eccinjOld _ (by decide)).trans (injectionDone_eccinjOld v (by decide))
    rw [State.injectionDone_only (v.injectionDone injIcTag), old]
    congr 1
    all_goals rw [State.injectionDone_only v]
  rw [injected, filled]

/-- A line read again, and its signals. -/
theorem refetch_changes (s : State) (l : CacheLine) (i a : Nat) : (s.isignal l).ifill i a = { s with
    icache := ((s.isignal l).ifill i a).icache, prefetched := ((s.isignal l).ifill i a).prefetched,
    eccinj := ((s.isignal l).ifill i a).eccinj, draws := ((s.isignal l).ifill i a).draws,
    eccBus := s.eccBus ||| ((if l.tagEcc = .none then 0#30 else 8#30) ||| (if l.dataEcc = .none then 0#30 else 16#30)) } := by
  refine (ifill_changes (s.isignal l) i a).trans ?_
  generalize (s.isignal l).ifill i a = v
  rw [isignal_eq]

/-- A fill leaves a valid line, and the other lines. -/
theorem iline_ifill_valid (s : State) {i : Nat} (a : Nat) (hi : i < s.icache.length) :
    ((s.ifill i a).iline i).valid = true ∧ ∀ j, j ≠ i → (s.ifill i a).iline j = s.iline j := by
  have same : (busReadState s.cfg.ilineRam s (a / 32 * 32) 32).icache = s.icache := by rw [busReadState_only]
  have filled : ∃ l : CacheLine, l.valid = true ∧ ∀ j, (s.ifill i a).iline j = if j = i then l else s.iline j := by
    refine ⟨filledLine s.cfg.itagUnit (a / 32) (s.ifillBytes a) (s.injectedBits injIcTag (27 - Nat.log2 s.cfg.itagUnit))
      (s.injectedBits injIcDat 256), rfl, fun j => ?_⟩
    rw [State.ifill, iline_congr (State.injectionDone_icache _ _), iline_congr (State.injectionDone_icache _ _),
      iline_setIline _ _ _ _ (by rw [same]; exact hi), iline_congr same]
  obtain ⟨l, valid, line⟩ := filled
  exact ⟨by rw [line i, if_pos rfl, valid], fun j hj => (line j).trans (if_neg hj)⟩

/-! ### A word of tightly-coupled memory read (60_exceptions.md R491) -/

/-- A 1-bit error of the word at `a` put right in the RAM. -/
theorem correctTcm_eq (ram : Nat → Bool) (h4 : a % 4 = 0) {b : Nat} (hm : s.tcmMark a = .single b) : s.correctTcm ram a = { s with
    mem := busStore ram s.mem a (bytesOfWord (flipWord (s.ramWord a) b)),
    tcmEcc := sparseSet EccMark.none s.tcmEcc (a / 4) EccMark.none } := by
  have whole : a / 4 * 4 = a := by omega
  rw [State.correctTcm, hm, State.flipTcm, wordBytes_word h4, whole, foldl_flipBytes_bytesOfWord]
  rfl

/-- What a correction leaves of the word, its mark and the rest. -/
theorem correctTcm_word (h4 : a % 4 = 0) {b : Nat} (hm : s.tcmMark a = .single b) (hs : s.Canonical)
    (hram : ∀ j, j < 4 → ram (a + j) = true) :
    (s.correctTcm ram a).InMem a (flipWord (s.ramWord a) b) ∧ (s.correctTcm ram a).tcmMark a = .none
    ∧ (∀ y, y < a ∨ a + 4 ≤ y → (s.correctTcm ram a).mem.read y = s.mem.read y)
    ∧ ∀ j, j ≠ a / 4 → sparseGet EccMark.none (s.correctTcm ram a).tcmEcc j = sparseGet EccMark.none s.tcmEcc j := by
  obtain ⟨memWf, -, tcmWf, -⟩ := hs
  rw [correctTcm_eq ram h4 hm]
  exact ⟨fun j hj => busStore_inMem memWf hram _ hj, sparseGet_set_same _ _ _ _ tcmWf, fun y hy => busStore_other _ _ _ _ _ hy,
    fun j hj => sparseGet_set_other _ _ _ _ _ hj⟩

theorem tcmRead_clean (h : s.eccRead (s.tcmMark a) = .clean) (hram : ∀ j, j < 4 → ram (a + j) = true) (x : Exc) (re ue : Nat) :
    tcmRead ram x re ue a 4 s = .ok (bytesOfWord (s.ramWord a)) s := by
  rw [tcmRead, h, busReadState_ram ram s a 4 hram]
  exact congrArg (Flow.ok · s) (busBytes_word hram)

theorem tcmRead_single {b : Nat} (hm : s.tcmMark a = .single b) (he : s.cfg.ecc = true) (on : bit s.config 2 = true) (h4 : a % 4 = 0)
    (hs : s.Canonical) (hram : ∀ j, j < 4 → ram (a + j) = true) (x : Exc) (re ue : Nat) :
    tcmRead ram x re ue a 4 s = .ok (bytesOfWord (flipWord (s.ramWord a) b)) ((s.correctTcm ram a).signal re) := by
  obtain ⟨word, -⟩ := correctTcm_word h4 hm hs hram
  rw [tcmRead, hm, eccRead_single he on]
  dsimp only
  rw [busReadState_ram ram _ a 4 hram, busBytes_word hram, InMem.ramWord word]

theorem tcmRead_fatal (h : s.eccRead (s.tcmMark a) = .fatal) (x : Exc) (re ue n : Nat) :
    tcmRead ram x re ue a n s = .stop (.next (State.take { s with eccBus := s.eccBus ||| BitVec.ofNat 30 (2 ^ ue) } x)) := by
  rw [tcmRead, h]
  exact congrArg (fun u => Flow.stop (.next (State.take u x))) (signal_eq s ue)

/-- What a correction and its signal leave. -/
theorem corrected_signal_only (h4 : a % 4 = 0) {b : Nat} (hm : s.tcmMark a = .single b) (re : Nat) :
    (s.correctTcm ram a).signal re = { s with
      mem := ((s.correctTcm ram a).signal re).mem
      tcmEcc := ((s.correctTcm ram a).signal re).tcmEcc
      eccBus := s.eccBus ||| BitVec.ofNat 30 (2 ^ re) } := by
  rw [signal_eq, correctTcm_eq ram h4 hm]

/-! ### The fetch of such a word -/

theorem physFetch_itcm (hk : tcmNumber s.cfg.itcms a = some k) (hf : s.eccRead (s.tcmMark a) ≠ .fatal) :
    physFetch va a s = (tcmRead s.cfg.fetchRam .eccFetch (5 + 2 * k) (6 + 2 * k) a 4 s).andThen fun bs s1 =>
      .ok { word := wordOfByteList bs, late := none } s1 := by
  unfold physFetch
  rw [hk]
  dsimp only
  split
  · next h => exact absurd h hf
  · rfl

theorem physFetch_itcm_fatal (hk : tcmNumber s.cfg.itcms a = some k) (hf : s.eccRead (s.tcmMark a) = .fatal) :
    ∃ f, f.late = some (.eccFetch k) ∧ physFetch va a s = .ok f s := by
  unfold physFetch
  rw [hk, hf]
  exact ⟨_, rfl, rfl⟩

/-! ### A store in a data tightly-coupled memory (60_exceptions.md R495) -/

/-- The word that a store leaves in a RAM: the one stored, but for the bits that an injection puts in error. -/
def State.injectedWord (s : State) (lo : Nat) (w : Word) : Word := (s.injectedBits lo 32).foldl flipWord w

/-- A whole word stored. -/
theorem tcmWrite_word (he : s.cfg.ecc = true) (h4 : a % 4 = 0) (hs : s.Canonical) (hram : ∀ j, j < 4 → s.cfg.dataRam (a + j) = true) (w : Word) :
    (s.tcmWrite k a (bytesOfWord w)).InMem a (s.injectedWord (injDtcm k) w)
    ∧ (s.tcmWrite k a (bytesOfWord w)).tcmMark a = markOf (s.injectedBits (injDtcm k) 32)
    ∧ (∀ y, y < a ∨ a + 4 ≤ y → (s.tcmWrite k a (bytesOfWord w)).mem.read y = s.mem.read y)
    ∧ ∀ j, j ≠ a / 4 → sparseGet EccMark.none (s.tcmWrite k a (bytesOfWord w)).tcmEcc j = sparseGet EccMark.none s.tcmEcc j := by
  obtain ⟨memWf, -, tcmWf, -⟩ := hs
  have whole : a / 4 * 4 = a := by omega
  let s1 : State := { s with mem := busStore s.cfg.dataRam s.mem a (bytesOfWord w) }
  have wf1 : s1.mem.wf = true := busStore_wf _ _ _ _ memWf
  have word1 : s1.InMem a w := fun j hj => busStore_inMem memWf hram w hj
  have fresh : s.rewrittenMark a (bytesOfWord w).length = .none := rfl
  have flips : EccMark.injectionFlips .none (s.injectedBits (injDtcm k) 32) = s.injectedBits (injDtcm k) 32 := by
    unfold EccMark.injectionFlips
    split
    · next h => rw [h]
    · rfl
  have mark : EccMark.withInjection .none (s.injectedBits (injDtcm k) 32) = markOf (s.injectedBits (injDtcm k) 32) := by
    unfold EccMark.withInjection
    split
    · next h =>
      rcases h with h | h
      · rw [h]; rfl
      · cases h
    · rfl
  have mem : (s.tcmWrite k a (bytesOfWord w)).mem = busStore s.cfg.dataRam s1.mem a (bytesOfWord (s.injectedWord (injDtcm k) w)) := by
    rw [State.tcmWrite, if_pos he]
    dsimp only
    rw [State.injectionDone_mem, State.keepPrefetched_mem, fresh, flips, State.flipTcm, whole, wordBytes_word h4,
      InMem.ramWord word1, foldl_flipBytes_bytesOfWord]
    rfl
  have tcm : (s.tcmWrite k a (bytesOfWord w)).tcmEcc =
      sparseSet EccMark.none s.tcmEcc (a / 4) (markOf (s.injectedBits (injDtcm k) 32)) := by
    rw [State.tcmWrite, if_pos he]
    dsimp only
    rw [State.injectionDone_tcmEcc, State.keepPrefetched_tcmEcc, fresh, mark]
    rfl
  refine ⟨fun j hj => ?_, ?_, fun y hy => ?_, fun j hj => ?_⟩
  · rw [mem]
    exact busStore_inMem wf1 hram _ hj
  · rw [State.tcmMark, tcm]
    exact sparseGet_set_same _ _ _ _ tcmWf
  · rw [mem]
    exact (busStore_other _ _ _ _ _ hy).trans (busStore_other _ _ _ _ _ hy)
  · rw [tcm]
    exact sparseGet_set_other _ _ _ _ _ hj

theorem tcmWrite_field (he : s.cfg.ecc = true) (hk : k < 4) (bs : List Byte) :
    field (s.tcmWrite k a bs).eccinj (12 + 2 * k) 2 = 0#2 := by
  rw [State.tcmWrite, if_pos he]
  dsimp only
  refine injectionDone_field ?_ (by unfold injDtcm; omega)
  rw [State.keepPrefetched_cfg]
  exact he

/-- There are at most four data tightly-coupled memories (00_scope.md R7). -/
theorem tcmNumber_lt (hwf : s.cfg.wf = true) (hk : tcmNumber s.cfg.dtcms a = some k) : k < 4 := by
  have number : k < s.cfg.dtcms.length := (List.findIdx?_eq_some_iff_findIdx_eq.1 hk).1
  have most : s.cfg.dtcm.length ≤ 4 := by
    have wf := hwf
    unfold Config.wf at wf
    simp only [Bool.and_eq_true, decide_eq_true_eq] at wf
    tauto
  have some : s.cfg.dtcms.length ≤ s.cfg.dtcm.length := by
    unfold Config.dtcms
    split <;> simp
  omega

/-- Settles O54: the late exceptions, the refetched line, and one equation for each reading and each store of a word. -/
theorem eccFetchAndTcm : Obligations.EccFetchAndTcm := by
  intro s va a he hwf hl hlen h4 hs
  refine ⟨fun u => ⟨rfl, takeLate_eccFetch u⟩, fun u f x hx hF => ?late, fun hc on hv herr => ?icache, fun k hk hram => ?itcm,
    fun k io c hk hram => ?dtcm⟩
  case late =>
    have cause (y : Exc) : field (u.take y).exception 2 5 = y.code := by
      obtain ⟨-, -, reports⟩ := entryVectorAndCause u y
      exact (reports hF).1
    obtain ⟨decoded, undecoded⟩ := runWord_late_sources hx u
    exact ⟨decoded, undecoded, cause _, cause _⟩
  case icache =>
    have lines := Config.icacheLines_pos hwf hc
    have signalled (l : CacheLine) : (s.isignal l).icache = s.icache := by rw [isignal_eq]
    have hi (l : CacheLine) : va.toNat / 32 % (s.cfg.icacheSize / 32) < (s.isignal l).icache.length := by
      rw [signalled, hlen]
      exact Nat.mod_lt _ lines
    obtain ⟨valid, others⟩ := iline_ifill_valid _ a (hi (s.iline (va.toNat / 32 % (s.cfg.icacheSize / 32))))
    refine ⟨_, (icacheRead_refetch hv (irefetch_error he on herr)).trans ?_, refetch_changes s _ _ a, valid, fun j hj =>
      (others j hj).trans (iline_congr (signalled _) j)⟩
    refine congrArg (Flow.ok · _) ?_
    have inside : a % 32 + 4 ≤ 32 := by omega
    rw [take_drop_eq_map (by rw [State.ifillBytes, busBytes_length]; exact inside)]
    refine List.map_congr_left fun o ho => ?_
    have ho : a % 32 + o < 32 := by have := List.mem_range.1 ho; omega
    rw [ifillBytes_getD _ _ _ ho, isignal_eq]
  case itcm =>
    refine ⟨fun h => ?_, fun b hm on => ?_, fun hm on raises => ?_⟩
    · have clean : s.eccRead (s.tcmMark a) = .clean := eccRead_clean h
      rw [physFetch_itcm hk (by rw [clean]; nofun), tcmRead_clean clean hram, Flow.andThen, wordOfByteList_bytesOfWord]
      rfl
    · have hm : s.tcmMark a = .single b := hm
      obtain ⟨word, mark, mem, marks⟩ := correctTcm_word h4 hm hs hram
      refine ⟨(s.correctTcm s.cfg.fetchRam a).signal (5 + 2 * k), ?_, mark, word, ⟨mem, marks⟩, corrected_signal_only h4 hm _⟩
      rw [physFetch_itcm hk (by rw [hm, eccRead_single he on]; nofun), tcmRead_single hm he on h4 hs hram, Flow.andThen,
        wordOfByteList_bytesOfWord]
      rfl
    · have hm : s.tcmMark a = .double := hm
      exact physFetch_itcm_fatal hk (by rw [hm, eccRead_fatal he on raises])
  case dtcm =>
    have read (n : Nat) : physRead va io c a n s = tcmRead s.cfg.dataRam (.eccData va) (22 + 2 * k) (23 + 2 * k) a n s := by
      rw [physRead, hk]
    have write (bs : List Byte) : physWrite va io c a bs s = .ok () (s.tcmWrite k a bs) := by rw [physWrite, hk]
    refine ⟨fun h => ?_, fun b hm on => ?_, fun hm on raises => ?_, fun w => ?_⟩
    · have clean : s.eccRead (s.tcmMark a) = .clean := eccRead_clean h
      exact (read 4).trans (tcmRead_clean clean hram _ _ _)
    · have hm : s.tcmMark a = .single b := hm
      obtain ⟨word, mark, mem, marks⟩ := correctTcm_word h4 hm hs hram
      exact ⟨_, (read 4).trans (tcmRead_single hm he on h4 hs hram _ _ _), mark, word, ⟨mem, marks⟩, corrected_signal_only h4 hm _⟩
    · have hm : s.tcmMark a = .double := hm
      exact (read 4).trans (tcmRead_fatal (by rw [hm, eccRead_fatal he on raises]) _ _ _ _)
    · obtain ⟨word, mark, mem, marks⟩ := tcmWrite_word (k := k) he h4 hs hram w
      refine ⟨_, write _, ⟨mem, marks⟩, tcmWrite_field he (tcmNumber_lt hwf hk) _, fun h => ?_, fun h => ?_, fun h => ?_⟩
      · have none : s.injectedBits (injDtcm k) 32 = [] := injectedBits_none he h 32
        rw [State.injectedWord, none] at word
        rw [none] at mark
        exact ⟨mark, word⟩
      · obtain ⟨b, hb, one⟩ : ∃ b, b < 32 ∧ s.injectedBits (injDtcm k) 32 = [b] := injectedBits_one he h (by decide)
        rw [State.injectedWord, one, List.foldl_cons, List.foldl_nil, flipWord_lt w hb] at word
        rw [one] at mark
        exact ⟨b, hb, mark, word⟩
      · obtain ⟨b, d, hb, hd, hbd, two⟩ : ∃ b d, b < 32 ∧ d < 32 ∧ b ≠ d ∧ s.injectedBits (injDtcm k) 32 = [b, d] :=
          injectedBits_two he h (by decide)
        rw [State.injectedWord, two, List.foldl_cons, List.foldl_cons, List.foldl_nil, flipWord_lt w hb, flipWord_lt _ hd] at word
        rw [two] at mark
        exact ⟨b, d, hb, hd, hbd, mark, word⟩

end Sys2Proof.Machine

/-! ## ECC errors of the TLB (O51) -/

namespace Sys2Proof.Machine

open Sys2Proof

variable {s t : State} {va v : Word} {vpn : BitVec 20} {kind : AccessKind} {e : TlbEntry} {es : List TlbEntry} {n way : Nat} {c : Config}
  {a : RegIdx}

/-! ### The entries of a line (21_mmu_mpu.md R155, R156) -/

theorem tlbWaysOf_getElem? (hw : way < s.cfg.tlbWays) (he : s.tlb[tlbIndex s.cfg (tlbLine s.cfg vpn) way]? = some e) :
    (s.tlbWaysOf vpn)[way]? = some e := by
  simp [State.tlbWaysOf, hw, List.getD_eq_getElem?_getD, he]

/-- An entry of the table that lies in the line of a VPN is one of its ways. -/
theorem tlbWaysOf_of_line (h1 : 1 ≤ s.cfg.tlbWays) (hn : n / s.cfg.tlbWays = tlbLine s.cfg vpn) (he : s.tlb[n]? = some e) :
    (s.tlbWaysOf vpn)[n % s.cfg.tlbWays]? = some e := by
  refine tlbWaysOf_getElem? (Nat.mod_lt _ h1) ?_
  rw [tlbIndex, ← hn, Nat.mul_comm, Nat.div_add_mod]
  exact he

/-! ### An entry put right (60_exceptions.md R491, R495) -/

/-- A wrong bit of the tag portion. -/
theorem flip_tag (e : TlbEntry) {k : Nat} (hk : k < tlbTagWidth c) : e.flip c k = { e with tag := e.tag ^^^ 2 ^ k } := by
  have pfn : ¬ (tlbTagWidth c ≤ k ∧ k < tlbTagWidth c + 20) := by omega
  have pid : ¬ (tlbTagWidth c + 20 ≤ k ∧ k < tlbTagWidth c + 34) := by omega
  have flag (m : Nat) (b : Bool) : (b != (k == tlbTagWidth c + m)) = b := by
    have other : (k == tlbTagWidth c + m) = false := beq_eq_false_iff_ne.2 (by omega)
    rw [other, Bool.bne_false]
  simp only [TlbEntry.flip, hk, if_true, if_neg pfn, if_neg pid, flag]

theorem flip_ecc (e : TlbEntry) (k : Nat) : (e.flip c k).ecc = e.ecc := rfl

theorem foldl_flip_ecc (bits : List Nat) (e : TlbEntry) : (bits.foldl (TlbEntry.flip c) e).ecc = e.ecc := by
  induction bits generalizing e with
  | nil => rfl
  | cons k bits ih => rw [List.foldl_cons, ih, flip_ecc]

theorem fixed_unmarked (h : e.ecc = .none ∨ e.ecc = .double) : e.fixed c = e := by
  rw [TlbEntry.fixed]
  rcases h with h | h <;> rw [h]

theorem fixed_single {k : Nat} (h : e.ecc = .single k) : e.fixed c = { e.flip c k with ecc := .none } := by
  rw [TlbEntry.fixed, h]

/-! ### The reading of a line (60_exceptions.md R491, R496) -/

/-- What the reading of a line with an error leaves. -/
theorem tlbSettled_error (he : s.cfg.ecc = true) (on : bit s.config 2 = true) (herr : ∃ e ∈ s.tlbWaysOf vpn, e.ecc ≠ .none) :
    s.tlbSettled vpn = { s with
      tlb := s.tlb.mapIdx (fun i e => if i / s.cfg.tlbWays = tlbLine s.cfg vpn then e.fixed s.cfg else e)
      draws := s.draws + 1
      eccBus := s.eccBus ||| (if (s.tlbWaysOf vpn).any (fun e => e.ecc != .none && e.ecc != .double) then 0x80000#30 else 0#30)
        ||| (if (s.tlbWaysOf vpn).any (fun e => e.ecc == .double) then 0x100000#30 else 0#30) } := by
  have unclean : ¬ ((!s.eccOn || (s.tlbWaysOf vpn).all (fun e => e.ecc == .none)) = true) := by
    obtain ⟨e, hmem, hne⟩ := herr
    simp only [eccOn_eq he, on, Bool.not_true, Bool.false_or, List.all_eq_true, beq_iff_eq]
    exact fun h => hne (h e hmem)
  rw [State.tlbSettled, if_neg unclean]
  split <;> split <;> simp only [BitVec.or_zero] <;> rfl

theorem tlbFatal_iff (he : s.cfg.ecc = true) (on : bit s.config 2 = true) :
    s.tlbFatal vpn = true ↔ (∃ e ∈ s.tlbWaysOf vpn, e.ecc = .double) ∧ bit s.config 3 = true := by
  have fatal (m : EccMark) : s.eccRead m = .fatal ↔ m = .double ∧ bit s.config 3 = true := by
    cases m with
    | none => simp
    | single k => simp [eccRead_single he on]
    | double => cases raises : bit s.config 3 <;> simp [eccRead_fatal he on, eccRead_garbage he on, raises]
  simp only [State.tlbFatal, List.any_eq_true, beq_iff_eq, fatal]
  constructor
  · rintro ⟨e, hmem, hd, raises⟩
    exact ⟨⟨e, hmem, hd⟩, raises⟩
  · rintro ⟨⟨e, hmem, hd⟩, raises⟩
    exact ⟨e, hmem, hd, raises⟩

/-! ### The translation (21_mmu_mpu.md R167, R168) -/

theorem translateData_lookup (hm : s.cfg.mmu = true) (hva : va.toNat < 0xC0000000) (hf : s.tlbFatal (vpnOf va) = false) :
    translateData va kind s = tlbLookup va s (.tlbMissData va) (dataHit va kind) := by
  simp only [translateData, hm, mmuData, bypassesTlb_of_lt hva, hf, Bool.false_eq_true, if_false, if_true]
  refine congrArg (tlbLookup va s (.tlbMissData va)) (funext fun e => funext fun s1 => ?_)
  cases kind with
  | load => cases hr : e.r <;> simp [dataHit, tlbRefuses, hr, framePhysical_eq, raise]
  | store => cases hw : e.w <;> simp [dataHit, tlbRefuses, hw, framePhysical_eq, raise]
  | flushda => simp [dataHit, tlbRefuses, framePhysical_eq]
  | initda => simp [dataHit, tlbRefuses, framePhysical_eq]

theorem mmuFetch_lookup (hva : va.toNat < 0xC0000000) (hf : s.tlbFatal (vpnOf va) = false) (hu : (stU s.status && bit va 31) = false) :
    mmuFetch va s = tlbLookup va s .tlbMissInstr (fetchHit va) := by
  simp only [mmuFetch, bypassesTlb_of_lt hva, hf, hu, Bool.false_eq_true, if_false, framePhysical_eq]
  rfl

theorem translateData_eccTlb (hm : s.cfg.mmu = true) (hva : va.toNat < 0xC0000000) (hf : s.tlbFatal (vpnOf va) = true) :
    translateData va kind s = .stop (.next ((s.tlbSettled (vpnOf va)).take (.eccTlbData va))) := by
  simp only [translateData, hm, mmuData, bypassesTlb_of_lt hva, hf, Bool.false_eq_true, if_false, if_true]
  rfl

theorem mmuFetch_eccTlb (hva : va.toNat < 0xC0000000) (hf : s.tlbFatal (vpnOf va) = true) :
    mmuFetch va s = .stop (.next ((s.tlbSettled (vpnOf va)).take .eccTlbInstr)) := by
  simp only [mmuFetch, bypassesTlb_of_lt hva, hf, Bool.false_eq_true, if_false, if_true]
  rfl

section

variable {α : Type} {miss : Exc} {hit : TlbEntry → State → Flow α}

theorem tlbLookup_missed (h : s.tlbHits (vpnOf va) (s.tlbWaysOf (vpnOf va)) 0 = []) :
    tlbLookup va s miss hit = .stop (.next ((s.tlbSettled (vpnOf va)).take miss)) := by
  rw [tlbLookup, h]
  rfl

theorem tlbLookup_hit (h : s.tlbHits (vpnOf va) (s.tlbWaysOf (vpnOf va)) 0 = [e]) :
    tlbLookup va s miss hit = hit e (s.tlbSettled (vpnOf va)) := by
  rw [tlbLookup, h]

end

/-! ### 1-bit errors of a line -/

/-- An entry with at most a 1-bit error reads as it is put right. -/
theorem tlbHits_cons_fixed (he : s.cfg.ecc = true) (on : bit s.config 2 = true) (h : e.ecc ≠ .double) : s.tlbHits vpn (e :: es) way =
    if s.tlbMatches vpn (e.fixed s.cfg) then e.fixed s.cfg :: s.tlbHits vpn es (way + 1) else s.tlbHits vpn es (way + 1) := by
  cases hm : e.ecc with
  | none => simp only [State.tlbHits, State.tlbSeen, hm, State.eccRead_none, fixed_unmarked (.inl hm)]
  | single k => simp only [State.tlbHits, State.tlbSeen, hm, eccRead_single he on]
  | double => exact absurd hm h

theorem tlbHits_fixed (he : s.cfg.ecc = true) (on : bit s.config 2 = true) (h : ∀ e ∈ es, e.ecc ≠ .double) :
    s.tlbHits vpn es way = (es.map (TlbEntry.fixed s.cfg)).filter (s.tlbMatches vpn) := by
  induction es generalizing way with
  | nil => rfl
  | cons e es ih =>
    rw [tlbHits_cons_fixed he on (h e List.mem_cons_self), ih fun f hf => h f (List.mem_cons_of_mem e hf), List.map_cons,
      List.filter_cons]

/-- The line of a table whose entries in it are put right. -/
theorem tlbWaysOf_corrected (hcfg : t.cfg = s.cfg) (h1 : 1 ≤ s.cfg.tlbWays) (hle : s.cfg.tlbWays ≤ s.cfg.tlbEntries)
    (hlen : s.tlb.length = s.cfg.tlbEntries)
    (htlb : t.tlb = s.tlb.mapIdx (fun i e => if i / s.cfg.tlbWays = tlbLine s.cfg vpn then e.fixed s.cfg else e)) :
    t.tlbWaysOf vpn = (s.tlbWaysOf vpn).map (TlbEntry.fixed s.cfg) := by
  unfold State.tlbWaysOf
  rw [List.map_map, hcfg, htlb]
  refine List.map_congr_left fun w hw => ?_
  have hw : w < s.cfg.tlbWays := List.mem_range.1 hw
  have hi : tlbIndex s.cfg (tlbLine s.cfg vpn) w < s.tlb.length := hlen ▸ tlbIndex_lt h1 hle vpn hw
  have line : tlbIndex s.cfg (tlbLine s.cfg vpn) w / s.cfg.tlbWays = tlbLine s.cfg vpn := by
    rw [tlbIndex, Nat.mul_comm, Nat.mul_add_div h1, Nat.div_eq_of_lt hw, Nat.add_zero]
  simp [List.getD_eq_getElem?_getD, hi, line]

/-- The lookup in a line with 1-bit errors finds what matches once they are put right. -/
theorem tlbHits_settled (he : s.cfg.ecc = true) (on : bit s.config 2 = true) (h1 : 1 ≤ s.cfg.tlbWays)
    (hle : s.cfg.tlbWays ≤ s.cfg.tlbEntries) (hlen : s.tlb.length = s.cfg.tlbEntries) (herr : ∃ e ∈ s.tlbWaysOf vpn, e.ecc ≠ .none)
    (hd : ∀ e ∈ s.tlbWaysOf vpn, e.ecc ≠ .double) :
    s.tlbHits vpn (s.tlbWaysOf vpn) 0 = (s.tlbSettled vpn).tlbFinds vpn := by
  have ways : (s.tlbSettled vpn).tlbWaysOf vpn = (s.tlbWaysOf vpn).map (TlbEntry.fixed s.cfg) :=
    tlbWaysOf_corrected (by rw [tlbSettled_only]) h1 hle hlen (by rw [tlbSettled_error he on herr])
  rw [tlbHits_fixed he on hd, State.tlbFinds, ways, tlbSettled_only]
  rfl

/-! ### A 2-bit error that raises nothing (U25) -/

/-- Unmarked entries with another tag are not found. -/
theorem tlbHits_others (h : ∀ f ∈ es, f.ecc = .none ∧ f.tag ≠ tlbTag s.cfg vpn) : s.tlbHits vpn es way = [] := by
  induction es generalizing way with
  | nil => rfl
  | cons e es ih =>
    obtain ⟨hm, htag⟩ := h e List.mem_cons_self
    have rest := ih (way := way + 1) fun f hf => h f (List.mem_cons_of_mem e hf)
    simp [State.tlbHits, State.tlbSeen, hm, State.tlbMatches, htag, rest]

/-- The entry with a 2-bit error is found or not by a free choice, and delivers free values. -/
theorem tlbHits_garbage (he : s.cfg.ecc = true) (on : bit s.config 2 = true) (raises : bit s.config 3 = false) (hn : es[n]? = some e)
    (hd : e.ecc = .double) (others : ∀ m f, m ≠ n → es[m]? = some f → f.ecc = .none ∧ f.tag ≠ tlbTag s.cfg vpn) (way : Nat) :
    s.tlbHits vpn es way = if Config.freeBool s.draws (way + n) then [e.unknown s.draws (way + n)] else [] := by
  induction es generalizing n way with
  | nil => cases hn
  | cons f es ih =>
    cases n with
    | zero =>
      have none : s.tlbHits vpn es (way + 1) = [] := tlbHits_others fun g hg => by
        obtain ⟨m, hm⟩ := List.mem_iff_getElem?.1 hg
        exact others (m + 1) g (by omega) hm
      obtain rfl : f = e := by simpa using hn
      simp only [State.tlbHits, State.tlbSeen, hd, eccRead_garbage he on raises, none, Nat.add_zero]
    | succ n =>
      obtain ⟨hm, htag⟩ := others 0 f (by omega) rfl
      have rest := ih (n := n) hn (fun m g hm hg => others (m + 1) g (by omega) hg) (way + 1)
      rw [show way + 1 + n = way + (n + 1) by omega] at rest
      simp [State.tlbHits, State.tlbSeen, hm, State.tlbMatches, htag, rest]

end Sys2Proof.Machine

/-! ### The state that the reading of a line leaves -/

namespace Sys2Proof.Machine

open Sys2Proof

variable {s t u : State} {va v : Word} {vpn : BitVec 20} {kind : AccessKind} {e : TlbEntry} {n way : Nat} {c : Config} {a : RegIdx}

theorem tlbSettled_double (he : s.cfg.ecc = true) (on : bit s.config 2 = true) (hd : ∃ e ∈ s.tlbWaysOf vpn, e.ecc = .double) :
    s.tlbSettled vpn = { s with tlb := (s.tlbSettled vpn).tlb, draws := s.draws + 1, eccBus := (s.tlbSettled vpn).eccBus }
    ∧ (s.tlbSettled vpn).eccBus.getLsbD 20 = true := by
  have any : (s.tlbWaysOf vpn).any (fun e => e.ecc == .double) = true := by simpa using hd
  have err : ∃ e ∈ s.tlbWaysOf vpn, e.ecc ≠ .none := by
    obtain ⟨e, hmem, hm⟩ := hd
    exact ⟨e, hmem, by rw [hm]; nofun⟩
  rw [tlbSettled_error he on err]
  refine ⟨rfl, ?_⟩
  dsimp only
  rw [if_pos any, BitVec.getLsbD_or]
  have signal : (0x100000#30).getLsbD 20 = true := by decide
  rw [signal, Bool.or_true]

/-- Beside unmarked entries, a 2-bit error leaves the table and raises its signal alone. -/
theorem tlbSettled_garbage (he : s.cfg.ecc = true) (on : bit s.config 2 = true) (h1 : 1 ≤ s.cfg.tlbWays)
    (hd : ∃ e ∈ s.tlbWaysOf vpn, e.ecc = .double) (others : ∀ e ∈ s.tlbWaysOf vpn, e.ecc = .none ∨ e.ecc = .double) :
    s.tlbSettled vpn = { s with draws := s.draws + 1, eccBus := s.eccBus ||| 0x100000#30 } := by
  have any : (s.tlbWaysOf vpn).any (fun e => e.ecc == .double) = true := by simpa using hd
  have no : ¬ ((s.tlbWaysOf vpn).any (fun e => e.ecc != .none && e.ecc != .double) = true) := by
    rw [List.any_eq_true]
    rintro ⟨e, hmem, hm⟩
    rcases others e hmem with h | h <;> simp [h] at hm
  have err : ∃ e ∈ s.tlbWaysOf vpn, e.ecc ≠ .none := by
    obtain ⟨e, hmem, hm⟩ := hd
    exact ⟨e, hmem, by rw [hm]; nofun⟩
  have same : s.tlb.mapIdx (fun i e => if i / s.cfg.tlbWays = tlbLine s.cfg vpn then e.fixed s.cfg else e) = s.tlb := by
    refine List.ext_getElem? fun i => ?_
    rw [List.getElem?_mapIdx]
    cases hi : s.tlb[i]? with
    | none => rfl
    | some e =>
      by_cases line : i / s.cfg.tlbWays = tlbLine s.cfg vpn
      · have unchanged : e.fixed s.cfg = e := fixed_unmarked (others e (List.mem_of_getElem? (tlbWaysOf_of_line h1 line hi)))
        simp [unchanged]
      · simp [line]
  rw [tlbSettled_error he on err, if_neg no, if_pos any, same, BitVec.or_zero]

/-- 1-bit errors alone are put right and raise their signal. -/
theorem tlbSettled_single (he : s.cfg.ecc = true) (on : bit s.config 2 = true) (hs : ∃ e ∈ s.tlbWaysOf vpn, ∃ k, e.ecc = .single k)
    (hd : ∀ e ∈ s.tlbWaysOf vpn, e.ecc ≠ .double) : s.tlbSettled vpn = { s with
      tlb := s.tlb.mapIdx (fun i e => if i / s.cfg.tlbWays = tlbLine s.cfg vpn then e.fixed s.cfg else e), draws := s.draws + 1
      eccBus := s.eccBus ||| 0x80000#30 } := by
  obtain ⟨e, hmem, k, hk⟩ := hs
  have single : (s.tlbWaysOf vpn).any (fun e => e.ecc != .none && e.ecc != .double) = true :=
    List.any_eq_true.2 ⟨e, hmem, by simp [hk]⟩
  have no : ¬ ((s.tlbWaysOf vpn).any (fun e => e.ecc == .double) = true) := by
    rw [List.any_eq_true]
    rintro ⟨f, hf, hm⟩
    exact hd f hf (beq_iff_eq.1 hm)
  have err : ∃ e ∈ s.tlbWaysOf vpn, e.ecc ≠ .none := ⟨e, hmem, by rw [hk]; nofun⟩
  rw [tlbSettled_error he on err, if_pos single, if_neg no, BitVec.or_zero]

/-! ### `wrctl` to the registers of the TLB -/

/-- The WAY that `wrctl tlbmisc` writes (10_state.md R54). -/
theorem tlbWay_written (h16 : s.cfg.tlbWays ≤ 16) (v : Word) :
    State.tlbWay { s with tlbmisc := s.tlbmiscWritten v } = (v.extractLsb' 20 4).toNat % 2 ^ Nat.clog 2 s.cfg.tlbWays := by
  have low : s.tlbmisc &&& 0x0000000F#32 = place (field s.tlbmisc 0 4) 0 := and_lowMask_eq_place s.tlbmisc (k := 4) _ rfl
  have way : field (s.tlbmiscWritten v) 20 4 = field v 20 4 &&& wayMask s.cfg := by
    rw [State.tlbmiscWritten, low, flagMask, flagMask]
    simp (disch := omega) only [field_or, field_place_same, field_place_below, field_place_above, BitVec.or_zero, BitVec.zero_or]
  show (field (s.tlbmiscWritten v) 20 4).toNat = _
  rw [way, wayMask_eq h16, and_ofNat_mask, BitVec.toNat_ofNat, Nat.mod_eq_of_lt (lt_of_le_of_lt (Nat.mod_le _ _) (BitVec.isLt _))]
  rfl

/-- The EE that it writes, on a core with ECC (10_state.md R51). -/
theorem tlbmiscWritten_ee (he : s.cfg.ecc = true) (v : Word) : bit (s.tlbmiscWritten v) 24 = bit v 24 := by
  have way : (field v 20 4 &&& wayMask s.cfg).getLsbD (24 - 20) = false := BitVec.getLsbD_of_ge _ _ (by omega)
  have pid : (field v 4 14 &&& pidMask s.cfg).getLsbD (24 - 4) = false := BitVec.getLsbD_of_ge _ _ (by omega)
  have low : bit 0x0000000F#32 24 = false := by decide
  rw [State.tlbmiscWritten]
  simp (disch := omega) only [bit_or, bit_and, bit_flagMask, bit_place, he, way, pid, low]
  simp

/-- The entry that a TLB read names. -/
theorem tlbEntry_read (hx : s.tlb[tlbIndex s.cfg (tlbLine s.cfg s.pteVpn) s.tlbWay]? = some e) :
    s.tlb.getD (tlbIndex s.cfg (tlbLine s.cfg s.pteVpn) s.tlbWay) TlbEntry.zero = e := by
  rw [List.getD_eq_getElem?_getD, hx]
  rfl

/-- A TLB read of a corrupted entry: EE, its signal, and no exception (60_exceptions.md R494). -/
theorem readTlb_corrupted (he : s.cfg.ecc = true) (on : bit s.config 2 = true) (hw : s.tlbWay < s.cfg.tlbWays)
    (hx : s.tlb[tlbIndex s.cfg (tlbLine s.cfg s.pteVpn) s.tlbWay]? = some e) (hm : e.ecc ≠ .none) :
    ∃ vpn, s.readTlb = { s with
      pteaddr := vpn, tlbmisc := setBit (setField s.tlbmisc 4 14 e.pid) 24 true, tlbacc := tlbaccOf e
      draws := s.draws + 1, eccBus := s.eccBus ||| 0x200000#30 } := by
  have marked : ¬ ((!s.eccOn || e.ecc == .none) = true) := by simp [eccOn_eq he, on, hm]
  rw [State.readTlb, if_pos hw, tlbEntry_read hx]
  dsimp only
  rw [if_neg marked]
  exact ⟨_, rfl⟩

/-- A TLB read of an entry without an error. -/
theorem readTlb_unmarked (hw : s.tlbWay < s.cfg.tlbWays) (hx : s.tlb[tlbIndex s.cfg (tlbLine s.cfg s.pteVpn) s.tlbWay]? = some e)
    (hm : e.ecc = .none) : s.readTlb = { s with
      pteaddr := setField s.pteaddr 2 20 (s.vpnFromTag e.tag), tlbmisc := setField s.tlbmisc 4 14 e.pid, tlbacc := tlbaccOf e } := by
  have clean : (!s.eccOn || e.ecc == .none) = true := by simp [hm]
  rw [State.readTlb, if_pos hw, tlbEntry_read hx]
  dsimp only
  rw [if_pos clean]

/-- The entry that a TLB write makes: its tag and mark are those that the injection leaves (60_exceptions.md R495). -/
theorem tlbEntryOf_tag (s : State) (v : Word) {bits : List Nat} (hb : s.injectedBits injTlb (tlbTagWidth s.cfg) = bits)
    (hlt : ∀ b ∈ bits, b < tlbTagWidth s.cfg) : (s.tlbEntryOf v).ecc = markOf bits
    ∧ (s.tlbEntryOf v).tag = bits.foldl (fun tag b => tag ^^^ 2 ^ b) (s.pteVpn.toNat / s.cfg.tlbLines) := by
  have flips (bits : List Nat) (hlt : ∀ b ∈ bits, b < tlbTagWidth s.cfg) (e : TlbEntry) :
      (bits.foldl (TlbEntry.flip s.cfg) e).tag = bits.foldl (fun tag b => tag ^^^ 2 ^ b) e.tag := by
    induction bits generalizing e with
    | nil => rfl
    | cons b bits ih =>
      rw [List.foldl_cons, List.foldl_cons, ih (fun d hd => hlt d (List.mem_cons_of_mem b hd)), flip_tag e (hlt b List.mem_cons_self)]
  rw [State.tlbEntryOf, hb]
  exact ⟨foldl_flip_ecc bits _, flips bits hlt _⟩

/-- The state after `wrctl tlbacc` with WE, where WAY names an entry. -/
theorem writeTlbacc_writes (v : Word) (hwe : bit s.tlbmisc 18 = true) (hw : s.tlbWay < s.cfg.tlbWays) :
    (s.writeTlbacc v).eccinj = (s.injectionDone injTlb).eccinj
    ∧ (s.writeTlbacc v).tlb = s.tlb.set (tlbIndex s.cfg (tlbLine s.cfg s.pteVpn) s.tlbWay) (s.tlbEntryOf v) := by
  simp only [State.writeTlbacc, if_pos hwe, if_pos hw, and_true]
  unfold State.injectionDone
  split <;> rfl

/-- Settles O51: the line read in each of its states, then the TLB read and the TLB write. -/
theorem eccTlb : Obligations.EccTlb := by
  intro s hm he on hwf hlen hle ways lines tagWidth hlines
  obtain ⟨h1, h16, -⟩ := Config.wf_tlb hwf
  refine ⟨fun va kind hva => ⟨fun hd raises => ?fatal, fun way e hway hd raises others => ?garbage, fun k hk hd => ?single⟩,
    fun a hU => ⟨fun hrd hw e hx hne => ?corrupted, fun hrd hw e hx hnone => ?unmarked, fun hwe hw => ?write, fun hwe hw => ?noEntry⟩⟩
  case fatal =>
    have fatal : s.tlbFatal (vpnOf va) = true := (tlbFatal_iff he on).2 ⟨hd, raises⟩
    obtain ⟨only, signal⟩ := tlbSettled_double he on hd
    have settled : (s.tlbSettled (vpnOf va)).cfg.ecc = true := by rw [tlbSettled_only]; exact he
    exact ⟨s.tlbSettled (vpnOf va), only, signal, translateData_eccTlb hm hva fatal, mmuFetch_eccTlb hva fatal, take_cause settled _,
      take_cause settled _⟩
  case garbage =>
    have notFatal : s.tlbFatal (vpnOf va) = false := Bool.eq_false_iff.2 fun h => by
      rw [((tlbFatal_iff he on).1 h).2] at raises
      cases raises
    have hits := tlbHits_garbage (vpn := vpnOf va) he on raises hway hd others 0
    rw [Nat.zero_add] at hits
    have unmarked : ∀ f ∈ s.tlbWaysOf (vpnOf va), f.ecc = .none ∨ f.ecc = .double := fun f hf => by
      obtain ⟨m, hm⟩ := List.mem_iff_getElem?.1 hf
      by_cases same : m = way
      · subst same
        obtain rfl : f = e := Option.some.inj (hm.symm.trans hway)
        exact .inr hd
      · exact .inl (others m f same hm).1
    have settled := tlbSettled_garbage (vpn := vpnOf va) he on h1 ⟨e, List.mem_of_getElem? hway, hd⟩ unmarked
    refine ⟨fun hno => ?_, fun hyes => ?_⟩
    · rw [hno, if_neg Bool.false_ne_true] at hits
      refine ⟨?_, fun hu => ?_⟩
      · rw [translateData_lookup hm hva notFatal, tlbLookup_missed hits, settled]
      · rw [mmuFetch_lookup hva notFatal hu, tlbLookup_missed hits, settled]
    · rw [hyes, if_pos rfl] at hits
      refine ⟨?_, fun hu => ?_⟩
      · rw [translateData_lookup hm hva notFatal, tlbLookup_hit hits, settled]
        rfl
      · rw [mmuFetch_lookup hva notFatal hu, tlbLookup_hit hits, settled]
        rfl
  case single =>
    have noDouble : ∀ f ∈ s.tlbWaysOf (vpnOf va), f.ecc ≠ .double := fun f hf h => hd ⟨f, hf, h⟩
    have single : ∃ f ∈ s.tlbWaysOf (vpnOf va), ∃ k, f.ecc = .single k := by
      obtain ⟨f, hf, h⟩ := hk
      exact ⟨f, hf, k, h⟩
    have notFatal : s.tlbFatal (vpnOf va) = false := Bool.eq_false_iff.2 fun h => hd ((tlbFatal_iff he on).1 h).1
    have settled := tlbSettled_single (vpn := vpnOf va) he on single noDouble
    have marked : ∃ f ∈ s.tlbWaysOf (vpnOf va), f.ecc ≠ .none := by
      obtain ⟨f, hf, k, h⟩ := single
      exact ⟨f, hf, by rw [h]; nofun⟩
    have hits := tlbHits_settled he on h1 hle hlen marked noDouble
    have entry (n : Nat) : (s.tlbSettled (vpnOf va)).tlb[n]? =
        s.tlb[n]?.map (fun e => if n / s.cfg.tlbWays = tlbLine s.cfg (vpnOf va) then e.fixed s.cfg else e) := by
      rw [settled, List.getElem?_mapIdx]
    refine ⟨s.tlbSettled (vpnOf va), ?_, fun n hn => ?_, fun n e hn hx => ⟨fun h => ?_, fun b hb => ?_, fun b hb hbw => ?_⟩,
      fun hf => ?_, fun e hf => ⟨fun hkind hr => ?_, fun hkind hw => ?_, fun hu hx => ?_⟩⟩
    · rw [settled]
    · rw [entry]
      have other : ¬ (n / s.cfg.tlbWays = tlbLine s.cfg (vpnOf va)) := hn
      simp [other]
    · have line : n / s.cfg.tlbWays = tlbLine s.cfg (vpnOf va) := hn
      simp [entry, hx, line, fixed_unmarked (.inl h)]
    · have line : n / s.cfg.tlbWays = tlbLine s.cfg (vpnOf va) := hn
      simp [entry, hx, line, fixed_single hb]
    · have line : n / s.cfg.tlbWays = tlbLine s.cfg (vpnOf va) := hn
      simp [entry, hx, line, fixed_single hb, flip_tag e (c := s.cfg) hbw]
    · rw [translateData_lookup hm hva notFatal, tlbLookup_missed (hits.trans hf)]
    · rw [translateData_lookup hm hva notFatal, tlbLookup_hit (hits.trans hf), dataHit, if_neg (by simp [hr]), if_neg (by simp [hkind])]
    · rw [translateData_lookup hm hva notFatal, tlbLookup_hit (hits.trans hf), dataHit, if_neg (by simp [hkind]), if_neg (by simp [hw])]
    · rw [mmuFetch_lookup hva notFatal hu, tlbLookup_hit (hits.trans hf), fetchHit, if_pos hx]
  case corrupted =>
    rw [← tlbWay_written h16 (s.reg a)] at hw hx
    obtain ⟨vpn, read⟩ := readTlb_corrupted (s := { s with tlbmisc := s.tlbmiscWritten (s.reg a) }) he on hw hx hne
    refine ⟨_, exec_wrctl_tlbmisc hU hm, ?_⟩
    rw [writeTlbmisc_read hrd, read]
    exact ⟨bit_setBit_same _ _ _ (by decide), rfl, rfl⟩
  case unmarked =>
    rw [← tlbWay_written h16 (s.reg a)] at hw hx
    have read := readTlb_unmarked (s := { s with tlbmisc := s.tlbmiscWritten (s.reg a) }) hw hx hnone
    refine ⟨_, exec_wrctl_tlbmisc hU hm, ?_⟩
    rw [writeTlbmisc_read hrd, read]
    exact ⟨(bit_setField_other _ _ _ _ (by omega)).trans (tlbmiscWritten_ee he _), rfl⟩
  case write =>
    have hw : s.tlbWay < s.cfg.tlbWays := hw
    obtain ⟨eccinj, tlb⟩ := writeTlbacc_writes (s.reg a) hwe hw
    have hi : tlbIndex s.cfg (tlbLine s.cfg s.pteVpn) s.tlbWay < s.tlb.length := hlen ▸ tlbIndex_lt h1 hle _ hw
    have two : 2 ≤ tlbTagWidth s.cfg := by
      have some : s.cfg.tlbLines ≠ 0 := Nat.ne_of_gt (Nat.div_pos hle h1)
      have few : s.cfg.tlbLines ≤ 2 ^ 18 := hlines
      have bits : Nat.log2 s.cfg.tlbLines < 19 := (Nat.log2_lt some).2 (by omega)
      unfold tlbTagWidth
      omega
    refine ⟨_, exec_wrctl_tlbacc hU hm, (congrArg (field · 10 2) eccinj).trans (injectionDone_field he (by decide)),
      s.tlbEntryOf (s.reg a), ?_, fun h => ?_, fun h => ?_, fun h => ?_⟩
    · show (s.writeTlbacc (s.reg a)).tlb[_]? = _
      rw [tlb]
      exact List.getElem?_set_self hi
    · exact tlbEntryOf_tag s _ (injectedBits_none he h _) (by nofun)
    · obtain ⟨b, hb, one⟩ := injectedBits_one (w := tlbTagWidth s.cfg) he h (by omega)
      exact ⟨b, hb, tlbEntryOf_tag s _ one (by simpa using hb)⟩
    · obtain ⟨b, d, hb, hd, hbd, both⟩ := injectedBits_two he h two
      exact ⟨b, d, hb, hd, hbd, tlbEntryOf_tag s _ both (by simpa using ⟨hb, hd⟩)⟩
  case noEntry =>
    refine ⟨_, exec_wrctl_tlbacc hU hm, ?_⟩
    rw [writeTlbacc_noEntry hwe hw]
    exact ⟨rfl, rfl⟩

end Sys2Proof.Machine

/-! ## The data cache of a core with ECC -/

namespace Sys2Proof.Machine

open Sys2Proof

variable {s t u : State} {va : Word} {a i n : Nat} {bs : List Byte} {l : CacheLine} {filled : Option (List Byte)}

/-! ### Sizes (00_scope.md R7) -/

theorem Config.dcacheSize_mem {c : Config} (h : c.wf = true) :
    c.dcacheSize ∈ [0, 512, 1024, 2048, 4096, 8192, 16384, 32768, 65536] := by
  unfold Config.dcacheSize
  split
  · unfold Config.wf at h
    simp only [Bool.and_eq_true, decide_eq_true_eq] at h
    tauto
  · simp

theorem dindex_lt (hwf : s.cfg.wf = true) (h0 : s.cfg.dcacheSize ≠ 0) (hlen : s.dcache.length = s.cfg.dcacheSize / 32) :
    s.dindex va < s.dcache.length := by
  rw [hlen]
  exact Nat.mod_lt _ (cacheLines_pos (Config.dcacheSize_mem hwf) h0)

/-- A data tag has more than one bit. -/
theorem two_le_dtagWidth {c : Config} (hwf : c.wf = true) (h0 : c.dcacheSize ≠ 0) : 2 ≤ 27 - Nat.log2 c.dtagUnit := by
  have sizes := Config.dcacheSize_mem hwf
  simp only [List.mem_cons, List.not_mem_nil, or_false] at sizes
  have bounds : c.dtagUnit ≠ 0 ∧ c.dtagUnit < 2 ^ 25 := by
    unfold Config.dtagUnit Config.tagUnit
    split <;> omega
  have bits : Nat.log2 c.dtagUnit < 25 := (Nat.log2_lt bounds.1).2 bounds.2
  omega

/-! ### Bytes with wrong bits -/

/-- The byte `o` of a line whose bit `k` is wrong. -/
def flipAt (k : Nat) (data : Nat → Byte) (o : Nat) : Byte := if o = k / 8 then data o ^^^ BitVec.twoPow 8 (k % 8) else data o

theorem flipBytes_getD_of {data : List Byte} {byte : Nat → Byte} (h : ∀ o, o < data.length → data.getD o 0#8 = byte o) (k : Nat)
    {o : Nat} (ho : o < data.length) : (flipBytes data k).getD o 0#8 = flipAt k byte o := by
  rw [flipBytes_getD ho, h o ho]
  rfl

theorem foldl_flipBytes_getD {data : List Byte} {byte : Nat → Byte} (h : ∀ o, o < data.length → data.getD o 0#8 = byte o)
    (bits : List Nat) {o : Nat} (ho : o < data.length) :
    (bits.foldl flipBytes data).getD o 0#8 = bits.foldl (fun byte k => flipAt k byte) byte o := by
  induction bits generalizing data byte with
  | nil => exact h o ho
  | cons k bits ih =>
    have length : (flipBytes data k).length = data.length := flipBytes_length data k
    exact ih (fun o ho => flipBytes_getD_of h k (length ▸ ho)) (length ▸ ho)

theorem fixedData_getD {k : Nat} (hk : l.dataEcc = .single k) (hlen : l.data.length = 32) {o : Nat} (ho : o < 32) :
    l.fixedData.getD o 0#8 = flipAt k (fun o => l.data.getD o 0#8) o := by
  rw [CacheLine.fixedData, hk]
  exact flipBytes_getD_of (fun _ _ => rfl) k (hlen ▸ ho)

theorem flipTag_lt {m line k : Nat} (hk : k < 27 - Nat.log2 m) : flipTag m line k = line ^^^ (2 ^ k * m) := if_pos hk

/-! ### The tag read (60_exceptions.md R491, R496) -/

theorem lineTag_clean (h : s.eccRead l.tagEcc = .clean) : s.lineTag l = l.line := by
  rw [State.lineTag, h]

theorem dtagRead_clean (h : s.eccRead l.tagEcc = .clean) : s.dtagRead i l = s := by
  rw [State.dtagRead, h]

theorem dtagRead_fatal (h : s.eccRead l.tagEcc = .fatal) : s.dtagRead i l = s.drawn.signal 14 := by
  rw [State.dtagRead, h]

/-- A line whose tag with a 1-bit error is put right, and its signal. -/
def State.tagCorrected (s : State) (i k : Nat) : State :=
  (s.setDline i { s.dline i with line := flipTag s.cfg.dtagUnit (s.dline i).line k, tagEcc := .none }).signal 13

theorem lineTag_single {k : Nat} (he : s.cfg.ecc = true) (on : bit s.config 2 = true) (hk : l.tagEcc = .single k) :
    s.lineTag l = flipTag s.cfg.dtagUnit l.line k := by
  rw [State.lineTag, hk, eccRead_single he on]
  rfl

theorem dtagRead_single {k : Nat} (he : s.cfg.ecc = true) (on : bit s.config 2 = true) (hk : (s.dline i).tagEcc = .single k) :
    s.dtagRead i (s.dline i) = s.tagCorrected i k := by
  rw [State.dtagRead, lineTag_single he on hk, hk, eccRead_single he on]
  rfl

theorem dline_tagCorrected {k : Nat} (hi : i < s.dcache.length) : (s.tagCorrected i k).dline i =
    { s.dline i with line := flipTag s.cfg.dtagUnit (s.dline i).line k, tagEcc := .none } :=
  (s.dline_setDline i i _ hi).trans (if_pos rfl)

/-! ### The line made present (20_memory.md R125) -/

theorem dpresent_hit (hv : (s.dline i).valid = true) (h : s.eccRead (s.dline i).tagEcc = .clean) (hl : (s.dline i).line = a / 32) :
    dpresent va i a s = .ok none s := by
  have notFatal : s.eccRead (s.dline i).tagEcc ≠ .fatal := by rw [h]; nofun
  simp only [dpresent, if_pos hv, if_neg notFatal, lineTag_clean h, hl, dtagRead_clean h, if_true]

theorem dpresent_miss (hv : (s.dline i).valid = true) (h : s.eccRead (s.dline i).tagEcc = .clean) (hl : (s.dline i).line ≠ a / 32) :
    dpresent va i a s = .ok (some ((s.evict i).dfillBytes a)) ((s.evict i).dfill i a) := by
  have notFatal : s.eccRead (s.dline i).tagEcc ≠ .fatal := by rw [h]; nofun
  simp only [dpresent, if_pos hv, if_neg notFatal, lineTag_clean h, if_neg hl, dtagRead_clean h]

theorem dpresent_invalid (hv : (s.dline i).valid = false) : dpresent va i a s = .ok (some (s.dfillBytes a)) (s.dfill i a) :=
  if_neg (Bool.eq_false_iff.1 hv)

theorem dpresent_fatal (hv : (s.dline i).valid = true) (h : s.eccRead (s.dline i).tagEcc = .fatal) :
    dpresent va i a s = .stop (raise (.eccData va) (s.drawn.signal 14)) := by
  simp only [dpresent, if_pos hv, if_pos h, dtagRead_fatal h]

/-- The access of a line whose tag has a 1-bit error is that of the line put right. -/
theorem dpresent_tagCorrected {k : Nat} (he : s.cfg.ecc = true) (on : bit s.config 2 = true) (hi : i < s.dcache.length)
    (hv : (s.dline i).valid = true) (hk : (s.dline i).tagEcc = .single k) :
    dpresent va i a s = dpresent va i a (s.tagCorrected i k) := by
  have line := dline_tagCorrected (k := k) hi
  have clean : (s.tagCorrected i k).eccRead ((s.tagCorrected i k).dline i).tagEcc = .clean := eccRead_clean (.inl (by rw [line]))
  have valid : ((s.tagCorrected i k).dline i).valid = true := by rw [line]; exact hv
  have tag : ((s.tagCorrected i k).dline i).line = s.lineTag (s.dline i) := by rw [line, lineTag_single he on hk]
  have notFatal : s.eccRead (s.dline i).tagEcc ≠ .fatal := by rw [hk, eccRead_single he on]; nofun
  by_cases hl : s.lineTag (s.dline i) = a / 32
  · rw [dpresent_hit valid clean (tag.trans hl)]
    simp only [dpresent, if_pos hv, if_neg notFatal, if_pos hl, dtagRead_single he on hk]
  · rw [dpresent_miss valid clean (tag.symm ▸ hl)]
    simp only [dpresent, if_pos hv, if_neg notFatal, if_neg hl, dtagRead_single he on hk]

/-! ### Loads and stores by the line made present -/

/-- What a load makes of the line that is there (20_memory.md R110 step 4). -/
theorem dcacheRead_eq (va : Word) (a n : Nat) (s : State) : dcacheRead va a n s =
    (dpresent va (s.dindex va) a s).andThen fun filled s1 =>
      match filled with
      | some data => .ok ((data.drop (a % 32)).take n) s1
      | none =>
        match s1.ddataRead (s1.dline (s.dindex va)) with
        | .clean => .ok (lineBytes (s1.dline (s.dindex va)) (a % 32) n) s1
        | .corrected =>
          if (s1.dline (s.dindex va)).dirty then
            .ok (((s1.dline (s.dindex va)).fixedData.drop (a % 32)).take n)
              ((s1.setDline (s.dindex va)
                { s1.dline (s.dindex va) with data := (s1.dline (s.dindex va)).fixedData, dataEcc := .none }).signal 15)
          else .ok (((s1.dfillBytes a).drop (a % 32)).take n) ((s1.dfill (s.dindex va) a).signal 15)
        | .fatal => .stop (raise (.eccData va) (s1.signal 16))
        | .garbage => .ok (freeBytes s1.draws n) (s1.drawn.signal 16) := rfl

theorem dcacheRead_congr (hi : t.dindex va = s.dindex va) (h : dpresent va (s.dindex va) a s = dpresent va (s.dindex va) a t) (n : Nat) :
    dcacheRead va a n s = dcacheRead va a n t := by
  rw [dcacheRead_eq, dcacheRead_eq, hi, h]

theorem dcacheRead_filled {data : List Byte} (h : dpresent va (s.dindex va) a s = .ok (some data) t) (n : Nat) :
    dcacheRead va a n s = .ok ((data.drop (a % 32)).take n) t := by
  rw [dcacheRead_eq, h]
  rfl

theorem dcacheRead_stop {r : Result} (h : dpresent va (s.dindex va) a s = .stop r) (n : Nat) : dcacheRead va a n s = .stop r := by
  rw [dcacheRead_eq, h]
  rfl

theorem dcacheWrite_eq (va : Word) (a : Nat) (bs : List Byte) (s : State) : dcacheWrite va a bs s =
    (dpresent va (s.dindex va) a s).andThen fun _ s1 => .ok () (s1.dstore (s.dindex va) a bs) := rfl

theorem dcacheWrite_congr (hi : t.dindex va = s.dindex va) (h : dpresent va (s.dindex va) a s = dpresent va (s.dindex va) a t)
    (bs : List Byte) : dcacheWrite va a bs s = dcacheWrite va a bs t := by
  rw [dcacheWrite_eq, dcacheWrite_eq, hi, h]

theorem dcacheWrite_ok (h : dpresent va (s.dindex va) a s = .ok filled t) (bs : List Byte) :
    dcacheWrite va a bs s = .ok () (t.dstore (s.dindex va) a bs) := by
  rw [dcacheWrite_eq, h]
  rfl

theorem dcacheWrite_stop {r : Result} (h : dpresent va (s.dindex va) a s = .stop r) (bs : List Byte) :
    dcacheWrite va a bs s = .stop r := by
  rw [dcacheWrite_eq, h]
  rfl

/-! ### A line fill (20_memory.md R125, 60_exceptions.md R495) -/

/-- The line that a fill leaves. -/
def State.dfilledLine (s : State) (a : Nat) : CacheLine :=
  filledLine s.cfg.dtagUnit (a / 32) (s.dfillBytes a) (s.injectedBits injDcTag (27 - Nat.log2 s.cfg.dtagUnit))
    (s.injectedBits injDcDat 256)

/-- The byte that memory, or a free choice, gives for a fill. -/
def State.fillByte (s : State) (a o : Nat) : Byte :=
  if s.cfg.dlineRam (a / 32 * 32 + o) then s.mem.read (a / 32 * 32 + o) else Config.freeByte s.draws o

theorem dfillBytes_length (s : State) (a : Nat) : (s.dfillBytes a).length = 32 := busBytes_length _ _ _ _

theorem dfillBytes_getD (s : State) (a : Nat) {o : Nat} (ho : o < 32) : (s.dfillBytes a).getD o 0#8 = s.fillByte a o := by
  have hlen : o < (s.dfillBytes a).length := (dfillBytes_length s a).symm ▸ ho
  rw [List.getD_eq_getElem _ _ hlen]
  simp only [State.dfillBytes, busBytes, List.getElem_map, List.getElem_range, State.fillByte]

/-- The bytes that a load takes from a fill. -/
theorem dfillBytes_slice (s : State) (h : a % 32 + n ≤ 32) {k : Nat} (hk : k < n) :
    (((s.dfillBytes a).drop (a % 32)).take n)[k]? = some (s.fillByte a (a % 32 + k)) := by
  have ho : a % 32 + k < 32 := by omega
  have hlen : a % 32 + k < (s.dfillBytes a).length := (dfillBytes_length s a).symm ▸ ho
  rw [List.getElem?_take_of_lt hk, List.getElem?_drop, List.getElem?_eq_getElem hlen, ← dfillBytes_getD s a ho,
    List.getD_eq_getElem _ _ hlen]

theorem dfill_changes (s : State) (i a : Nat) : s.dfill i a = { s with
    dcache := (s.dfill i a).dcache, eccinj := (s.dfill i a).eccinj, eccinjOld := (s.dfill i a).eccinjOld, draws := (s.dfill i a).draws } := by
  unfold State.dfill
  dsimp only
  generalize filledLine _ _ _ _ _ = l
  rw [State.injectionDone_only (State.injectionDone _ _), State.injectionDone_only (State.setDline _ _ _), busReadState_only]
  rfl

theorem dline_dfill_injected (s : State) {i : Nat} (a : Nat) (hi : i < s.dcache.length) (j : Nat) :
    (s.dfill i a).dline j = if j = i then s.dfilledLine a else s.dline j := by
  have same : (busReadState s.cfg.dlineRam s (a / 32 * 32) 32).dcache = s.dcache := by rw [busReadState_only]
  rw [State.dfill, dline_congr (State.injectionDone_dcache _ _), dline_congr (State.injectionDone_dcache _ _),
    State.dline_setDline _ _ _ _ (by rw [same]; exact hi), dline_congr same]
  rfl

/-- Both fields are 0 after a fill. -/
theorem dfill_fields (he : s.cfg.ecc = true) (i a : Nat) :
    field (s.dfill i a).eccinj 6 2 = 0#2 ∧ field (s.dfill i a).eccinj 8 2 = 0#2 := by
  have ecc (l : CacheLine) : (State.setDline (busReadState s.cfg.dlineRam s (a / 32 * 32) 32) i l).cfg.ecc = true := by
    rw [busReadState_only]
    exact he
  unfold State.dfill
  dsimp only
  refine ⟨(injectionDone_field_other _ (.inl (by decide))).trans (injectionDone_field (ecc _) (by decide)),
    injectionDone_field ?_ (by decide)⟩
  rw [State.injectionDone_cfg]
  exact ecc _

/-- A fill does not depend on the line that it replaces. -/
theorem dfill_setDline (s : State) (i a : Nat) (l : CacheLine) : (s.setDline i l).dfill i a = s.dfill i a := by
  have bus : busReadState s.cfg.dlineRam (s.setDline i l) (a / 32 * 32) 32 = (busReadState s.cfg.dlineRam s (a / 32 * 32) 32).setDline i l := by
    unfold busReadState
    split <;> rfl
  have twice (u : State) (l' : CacheLine) : (u.setDline i l).setDline i l' = u.setDline i l' := by
    simp only [State.setDline, List.set_set]
  unfold State.dfill
  dsimp only
  rw [State.setDline_cfg, bus, twice]
  rfl

/-- The tag of a written line, whose address bits took the injection. -/
theorem tagWritten_of {line : Nat} (hwf : s.cfg.wf = true) (h0 : s.cfg.dcacheSize ≠ 0) (he : s.cfg.ecc = true) (hcfg : u.cfg = s.cfg)
    (hinj : field u.eccinj 6 2 = field s.eccinj 6 2) (hdone : field t.eccinj 6 2 = 0#2)
    (hline : (t.dline i).line = (u.injectedBits injDcTag (27 - Nat.log2 s.cfg.dtagUnit)).foldl (flipTag s.cfg.dtagUnit) line)
    (htag : (t.dline i).tagEcc = markOf (u.injectedBits injDcTag (27 - Nat.log2 s.cfg.dtagUnit))) : TagWritten s t i line := by
  have two := two_le_dtagWidth hwf h0
  have ecc : u.cfg.ecc = true := hcfg ▸ he
  refine ⟨hdone, fun h => ?_, fun h => ?_, fun h => ?_⟩
  · rw [injectedBits_none (lo := injDcTag) ecc (hinj.trans h)] at hline htag
    exact ⟨htag, hline⟩
  · obtain ⟨k, hk, bits⟩ := injectedBits_one (lo := injDcTag) ecc (hinj.trans h) (show 0 < 27 - Nat.log2 s.cfg.dtagUnit by omega)
    rw [bits] at hline htag
    exact ⟨k, hk, htag, hline.trans (flipTag_lt hk)⟩
  · obtain ⟨j, k, hj, hk, hjk, bits⟩ := injectedBits_two (lo := injDcTag) ecc (hinj.trans h) two
    rw [bits] at hline htag
    refine ⟨j, k, hj, hk, hjk, htag, hline.trans ?_⟩
    rw [List.foldl_cons, List.foldl_cons, List.foldl_nil, flipTag_lt hj, flipTag_lt hk]

end Sys2Proof.Machine

/-! ## What a store leaves in the data cache of a core with ECC (O53) -/

namespace Sys2Proof.Machine

open Sys2Proof

variable {s t u : State} {va : Word} {a i n : Nat} {bs : List Byte} {l : CacheLine}

/-! ### The line that a store leaves -/

/-- The bits of the word stored to that the injection of DCDAT puts in error. -/
def State.storeBits (s : State) (a : Nat) : List Nat := (s.injectedBits injDcDat 32).map (fun k => a % 32 / 4 * 32 + k)

/-- The mark of the line's data once the bytes are written, before an injection. -/
def CacheLine.markStored (l : CacheLine) (a n : Nat) : EccMark := l.dataEcc.overwritten (8 * (a % 32)) (8 * n)

/-- The line at `i` after the bytes are stored, its tag as it was. -/
def State.storedLine (s : State) (i a : Nat) (bs : List Byte) : CacheLine :=
  { s.dline i with
    dirty := true, stored := true,
    data := (((s.dline i).markStored a bs.length).injectionFlips (s.storeBits a)).foldl flipBytes (patchBytes (s.dline i).data (a % 32) bs),
    dataEcc := ((s.dline i).markStored a bs.length).withInjection (s.storeBits a) }

/-- The bits that the injection of DCTAG puts in error where the store writes the tag. -/
def State.storeTagBits (s : State) : List Nat := (s.injectionDone injDcDat).injectedBits injDcTag (27 - Nat.log2 s.cfg.dtagUnit)

theorem dstore_dirty (hd : (s.dline i).dirty = true) :
    s.dstore i a bs = (s.injectionDone injDcDat).setDline i (s.storedLine i a bs) := if_pos hd

theorem dstore_clean (hd : (s.dline i).dirty = false) :
    s.dstore i a bs = ((s.injectionDone injDcDat).injectionDone injDcTag).setDline i { s.storedLine i a bs with
      line := s.storeTagBits.foldl (flipTag s.cfg.dtagUnit) (a / 32), tagEcc := markOf s.storeTagBits } :=
  if_neg (Bool.eq_false_iff.1 hd)

theorem dline_dstore_dirty (hd : (s.dline i).dirty = true) (hi : i < s.dcache.length) (a : Nat) (bs : List Byte) :
    (s.dstore i a bs).dline i = s.storedLine i a bs := by
  rw [dstore_dirty hd]
  exact (State.dline_setDline _ _ _ _ (by simpa using hi)).trans (if_pos rfl)

theorem dline_dstore_clean (hd : (s.dline i).dirty = false) (hi : i < s.dcache.length) (a : Nat) (bs : List Byte) :
    (s.dstore i a bs).dline i = { s.storedLine i a bs with
      line := s.storeTagBits.foldl (flipTag s.cfg.dtagUnit) (a / 32), tagEcc := markOf s.storeTagBits } := by
  rw [dstore_clean hd]
  exact (State.dline_setDline _ _ _ _ (by simpa using hi)).trans (if_pos rfl)

/-- The line, its tag apart. -/
theorem dline_dstore (hi : i < s.dcache.length) (a : Nat) (bs : List Byte) :
    ∃ line tagEcc, (s.dstore i a bs).dline i = { s.storedLine i a bs with line := line, tagEcc := tagEcc } := by
  cases hd : (s.dline i).dirty
  · exact ⟨_, _, dline_dstore_clean hd hi a bs⟩
  · exact ⟨_, _, dline_dstore_dirty hd hi a bs⟩

/-- A store changes one line and the fields of injection. -/
theorem dstore_changes (s : State) (i a : Nat) (bs : List Byte) : s.dstore i a bs = { s with
      dcache := (s.dstore i a bs).dcache, eccinj := (s.dstore i a bs).eccinj, eccinjOld := (s.dstore i a bs).eccinjOld,
      draws := (s.dstore i a bs).draws }
    ∧ ∀ j, j ≠ i → (s.dstore i a bs).dline j = s.dline j := by
  cases hd : (s.dline i).dirty
  · rw [dstore_clean hd]
    refine ⟨?_, fun j hj => (dline_setDline_ne _ _ hj).trans (dline_congr (by simp) j)⟩
    rw [State.injectionDone_only (State.injectionDone _ _), State.injectionDone_only s]
    rfl
  · rw [dstore_dirty hd]
    refine ⟨?_, fun j hj => (dline_setDline_ne _ _ hj).trans (dline_congr (by simp) j)⟩
    rw [State.injectionDone_only s]
    rfl

/-- The field DCDAT is 0 after a store; DCTAG is so too where the tag is written, and as it was where it is not. -/
theorem dstore_fields (he : s.cfg.ecc = true) (i a : Nat) (bs : List Byte) :
    field (s.dstore i a bs).eccinj 8 2 = 0#2
    ∧ ((s.dline i).dirty = false → field (s.dstore i a bs).eccinj 6 2 = 0#2)
    ∧ ((s.dline i).dirty = true → field (s.dstore i a bs).eccinj 6 2 = field s.eccinj 6 2) := by
  have data : field (s.injectionDone injDcDat).eccinj 8 2 = 0#2 := injectionDone_field he (by decide)
  cases hd : (s.dline i).dirty
  · rw [dstore_clean hd]
    refine ⟨(injectionDone_field_other _ (.inr (by decide))).trans data, fun _ => injectionDone_field ?_ (by decide), nofun⟩
    rw [State.injectionDone_cfg]
    exact he
  · rw [dstore_dirty hd]
    exact ⟨data, nofun, fun _ => injectionDone_field_other s (.inl (by decide))⟩

/-! ### Its data (60_exceptions.md R495) -/

/-- A byte of the line after a store without injections. -/
def storeByte (a : Nat) (bs : List Byte) (old : Nat → Byte) (o : Nat) : Byte :=
  if a % 32 ≤ o ∧ o < a % 32 + bs.length then bs.getD (o - a % 32) 0#8 else old o

theorem patchBytes_getD {data : List Byte} {off : Nat} (h : off + bs.length ≤ data.length) (o : Nat) :
    (patchBytes data off bs).getD o 0#8 =
      if off ≤ o ∧ o < off + bs.length then bs.getD (o - off) 0#8 else data.getD o 0#8 := by
  by_cases ho : off ≤ o ∧ o < off + bs.length
  · obtain ⟨k, rfl⟩ : ∃ k, o = off + k := ⟨o - off, by omega⟩
    rw [if_pos ho, patchBytes_getD_inside h (by omega), Nat.add_sub_cancel_left]
  · rw [if_neg ho, patchBytes_getD_outside h (by omega)]

/-- The bytes stored lie in one word of the line. -/
theorem store_fits (hw : a % 32 / 4 = (a % 32 + bs.length - 1) / 4) (hne : bs ≠ []) : a % 32 + bs.length ≤ 32 := by
  have pos : 0 < bs.length := List.length_pos_iff.2 hne
  omega

/-- No injection: the bytes, and the mark that they leave. -/
theorem storedLine_uninjected (hb : s.storeBits a = []) (hl : (s.dline i).data.length = 32) (hf : a % 32 + bs.length ≤ 32) :
    (∀ o, (s.storedLine i a bs).data.getD o 0#8 = storeByte a bs (fun o => (s.dline i).data.getD o 0#8) o)
    ∧ ((s.dline i).dataEcc = .none → (s.storedLine i a bs).dataEcc = .none) := by
  rw [State.storedLine, hb]
  refine ⟨fun o => ?_, fun h => ?_⟩
  · simp only [EccMark.injectionFlips, if_true, List.foldl_nil]
    exact patchBytes_getD (by rw [hl]; exact hf) o
  · simp [CacheLine.markStored, h, EccMark.overwritten, EccMark.withInjection]

/-- Where the line had no error, the wrong bits are those of the injection. -/
theorem storedLine_injected {bits : List Nat} (hb : s.storeBits a = bits) (hne : bits ≠ []) (hm : (s.dline i).dataEcc = .none) :
    (s.storedLine i a bs).data = bits.foldl flipBytes (patchBytes (s.dline i).data (a % 32) bs)
    ∧ (s.storedLine i a bs).dataEcc = markOf bits := by
  have fresh : (s.dline i).markStored a bs.length = .none := by rw [CacheLine.markStored, hm]; rfl
  rw [State.storedLine, fresh, hb]
  simp [EccMark.injectionFlips, EccMark.withInjection, EccMark.wrongBits, hne]

/-- Two wrong bits, with what the line had. -/
theorem storedLine_two {j k : Nat} (hb : s.storeBits a = [j, k]) : (s.storedLine i a bs).dataEcc = .double := by
  rw [State.storedLine, hb]
  show EccMark.withInjection _ _ = _
  unfold EccMark.withInjection
  split
  · next h => exact h.resolve_left nofun
  · rfl

theorem storeBits_none (he : s.cfg.ecc = true) (h : field s.eccinj 8 2 = 0#2) : s.storeBits a = [] := by
  rw [State.storeBits, injectedBits_none (lo := injDcDat) he h]
  rfl

theorem storeBits_one (he : s.cfg.ecc = true) (h : field s.eccinj 8 2 = 1#2) : ∃ k, a % 32 / 4 = k / 32 ∧ s.storeBits a = [k] := by
  obtain ⟨k, hk, bits⟩ := injectedBits_one (lo := injDcDat) he h (show 0 < 32 by decide)
  exact ⟨a % 32 / 4 * 32 + k, by omega, by rw [State.storeBits, bits]; rfl⟩

theorem storeBits_two (he : s.cfg.ecc = true) (h : field s.eccinj 8 2 = 2#2) :
    ∃ j k, a % 32 / 4 = j / 32 ∧ a % 32 / 4 = k / 32 ∧ j ≠ k ∧ s.storeBits a = [j, k] := by
  obtain ⟨j, k, hj, hk, hjk, bits⟩ := injectedBits_two (lo := injDcDat) he h (show 2 ≤ 32 by decide)
  exact ⟨a % 32 / 4 * 32 + j, a % 32 / 4 * 32 + k, by omega, by omega, by omega, by rw [State.storeBits, bits]; rfl⟩

/-! ### The line that a store displaces -/

/-- A line written back where it is dirty, then taken out. -/
def State.displaced (s : State) (i : Nat) : State :=
  (if (s.dline i).dirty then s.writeBack (s.dline i) else s).setDline i { s.dline i with valid := false }

theorem dpresent_displaced (hv : (s.dline i).valid = true) (h : s.eccRead (s.dline i).tagEcc = .clean)
    (hl : (s.dline i).line ≠ a / 32) : dpresent va i a s = dpresent va i a (s.displaced i) := by
  have gone : ((s.displaced i).dline i).valid = false := dline_setDline_valid _ i rfl
  rw [dpresent_miss hv h hl, dpresent_invalid gone, State.displaced, dfill_setDline]
  rfl

theorem dindex_congr (h : t.cfg = s.cfg) (va : Word) : t.dindex va = s.dindex va := by
  rw [State.dindex, State.dindex, h]

/-- The line that a store leaves, whatever its tag. -/
theorem dstore_line (hi : i < s.dcache.length) (a : Nat) (bs : List Byte) :
    ((s.dstore i a bs).dline i).valid = (s.dline i).valid ∧ ((s.dstore i a bs).dline i).dirty = true
    ∧ ((s.dstore i a bs).dline i).stored = true ∧ ((s.dstore i a bs).dline i).data = (s.storedLine i a bs).data
    ∧ ((s.dstore i a bs).dline i).dataEcc = (s.storedLine i a bs).dataEcc := by
  obtain ⟨line, tagEcc, stored⟩ := dline_dstore hi a bs
  rw [stored]
  exact ⟨rfl, rfl, rfl, rfl, rfl⟩

/-- A store in a line without an error, where an injection puts bits in error. -/
theorem storedLine_getD_injected {bits : List Nat} (hb : s.storeBits a = bits) (hne : bits ≠ []) (hm : (s.dline i).dataEcc = .none)
    (hl : (s.dline i).data.length = 32) (hf : a % 32 + bs.length ≤ 32) {o : Nat} (ho : o < 32) :
    (s.storedLine i a bs).data.getD o 0#8 = bits.foldl (fun byte k => flipAt k byte) (storeByte a bs (fun o => (s.dline i).data.getD o 0#8)) o := by
  rw [(storedLine_injected hb hne hm).1]
  refine foldl_flipBytes_getD (fun o _ => patchBytes_getD (by rw [hl]; exact hf) o) bits ?_
  rw [patchBytes_length (by rw [hl]; exact hf), hl]
  exact ho

/-- Settles O53: a store in a line that is there, one that fills the line first, and one that displaces another. -/
theorem eccDataCacheStores : Obligations.EccDataCacheStores := by
  intro s va a bs he hwf hwhole hlen h0 hword hne
  have hi : s.dindex va < s.dcache.length := dindex_lt hwf h0 hlen
  have hf := store_fits hword hne
  refine ⟨fun hv hreads hline => ?hit, fun hv => ?invalid, fun hv hreads hline => ?displaces⟩
  case hit =>
    have clean : s.eccRead (s.dline (s.dindex va)).tagEcc = .clean := eccRead_clean hreads.symm
    have hl : (s.dline (s.dindex va)).data.length = 32 := s.dline_length hwhole _
    obtain ⟨only, others⟩ := dstore_changes s (s.dindex va) a bs
    obtain ⟨valid, dirty, stored, data, mark⟩ := dstore_line hi a bs
    obtain ⟨field8, field6, kept6⟩ := dstore_fields he (s.dindex va) a bs
    have byte (o : Nat) : ((s.dstore (s.dindex va) a bs).dline (s.dindex va)).data.getD o 0#8 = (s.storedLine (s.dindex va) a bs).data.getD o 0#8 :=
      congrArg (·.getD o 0#8) data
    refine ⟨s.dstore (s.dindex va) a bs, ⟨dcacheWrite_ok (dpresent_hit (va := va) hv clean hline) bs, only, valid.trans hv, dirty, stored,
      field8, others⟩, fun h => ?none, fun h hm => ?one, fun h => ?two, fun hd => ?dirty, fun hd => ?clean⟩
    case none =>
      obtain ⟨bytes, unmarked⟩ := storedLine_uninjected (storeBits_none he h) hl hf
      exact ⟨fun o _ => (byte o).trans (bytes o), fun hm => mark.trans (unmarked hm)⟩
    case one =>
      obtain ⟨k, hk, bits⟩ := storeBits_one (a := a) he h
      have injected := storedLine_injected (bs := bs) bits (by nofun) hm
      exact ⟨k, hk, mark.trans injected.2, fun o ho => (byte o).trans (storedLine_getD_injected bits (by nofun) hm hl hf ho)⟩
    case two =>
      obtain ⟨j, k, hj, hk, hjk, bits⟩ := storeBits_two (a := a) he h
      exact ⟨mark.trans (storedLine_two bits), fun hm =>
        ⟨k, j, hk, hj, hjk.symm, fun o ho => (byte o).trans (storedLine_getD_injected bits (by nofun) hm hl hf ho)⟩⟩
    case dirty =>
      have line := dline_dstore_dirty hd hi a bs
      exact ⟨(congrArg CacheLine.tagEcc line).trans rfl, (congrArg CacheLine.line line).trans rfl, kept6 hd⟩
    case clean =>
      have line := dline_dstore_clean hd hi a bs
      exact tagWritten_of hwf h0 he (s.injectionDone_cfg injDcDat) (injectionDone_field_other s (.inl (by decide))) (field6 hd)
        (congrArg CacheLine.line line) (congrArg CacheLine.tagEcc line)
  case invalid =>
    let u := s.dfill (s.dindex va) a
    have only := dfill_changes s (s.dindex va) a
    have cfg : u.cfg = s.cfg := by rw [show u = _ from only]
    have ecc : u.cfg.ecc = true := cfg ▸ he
    have length : u.dcache.length = s.dcache.length := (inner_dfill s (s.dindex va) a).dcacheLength
    have hiu : s.dindex va < u.dcache.length := length ▸ hi
    have line : u.dline (s.dindex va) = s.dfilledLine a := (dline_dfill_injected s a hi _).trans (if_pos rfl)
    have hl : (u.dline (s.dindex va)).data.length = 32 := by
      rw [line]
      exact (foldl_flipBytes_length _ _).trans (dfillBytes_length s a)
    obtain ⟨tagField, dataField⟩ := dfill_fields he (s.dindex va) a
    have undirty : (u.dline (s.dindex va)).dirty = false := by rw [line]; rfl
    obtain ⟨changes, others⟩ := dstore_changes u (s.dindex va) a bs
    obtain ⟨valid, dirty, stored, data, mark⟩ := dstore_line hiu a bs
    obtain ⟨field8, field6, -⟩ := dstore_fields ecc (s.dindex va) a bs
    have noTagBits : u.storeTagBits = [] :=
      injectedBits_none (lo := injDcTag) (by rw [State.injectionDone_cfg]; exact ecc)
        ((injectionDone_field_other u (.inl (by decide))).trans tagField) _
    have tag := dline_dstore_clean undirty hiu a bs
    rw [noTagBits] at tag
    obtain ⟨bytes, unmarked⟩ := storedLine_uninjected (storeBits_none ecc dataField) hl hf
    refine ⟨u.dstore (s.dindex va) a bs, ⟨dcacheWrite_ok (dpresent_invalid (va := va) hv) bs, ?_, ?_, dirty, stored, field8, fun j hj => ?_⟩,
      congrArg CacheLine.tagEcc tag, congrArg CacheLine.line tag, field6 undirty, fun h => ⟨?_, fun o ho => ?_⟩⟩
    · rw [changes, show u = _ from only]
    · rw [valid, line]; rfl
    · exact (others j hj).trans ((dline_dfill_injected s a hi j).trans (if_neg hj))
    · refine mark.trans (unmarked ?_)
      rw [line]
      exact congrArg markOf (injectedBits_none (lo := injDcDat) he h 256)
    · have filled : (u.dline (s.dindex va)).data = s.dfillBytes a := by
        rw [line]
        exact congrArg (·.foldl flipBytes (s.dfillBytes a)) (injectedBits_none (lo := injDcDat) he h 256)
      refine (congrArg (·.getD o 0#8) data).trans ((bytes o).trans ?_)
      rw [storeByte, filled, dfillBytes_getD s a ho]
      rfl
  case displaces =>
    have clean : s.eccRead (s.dline (s.dindex va)).tagEcc = .clean := eccRead_clean hreads.symm
    have same := dpresent_displaced (va := va) hv clean hline
    have cfg : (s.displaced (s.dindex va)).cfg = s.cfg := by
      unfold State.displaced
      split
      · exact (inner_writeBack s _).cfg
      · rfl
    exact ⟨dcacheWrite_congr (dindex_congr cfg va) same bs, dcacheRead_congr (dindex_congr cfg va) same⟩

end Sys2Proof.Machine

/-! ## ECC errors of the data cache (O52) -/

namespace Sys2Proof.Machine

open Sys2Proof

variable {s t u : State} {va : Word} {a i n : Nat} {bs : List Byte} {l : CacheLine}

/-! ### The data of a line that is there (60_exceptions.md R491) -/

theorem dcacheRead_present (h : dpresent va (s.dindex va) a s = .ok none s) (n : Nat) : dcacheRead va a n s =
    match s.ddataRead (s.dline (s.dindex va)) with
    | .clean => .ok (lineBytes (s.dline (s.dindex va)) (a % 32) n) s
    | .corrected =>
      if (s.dline (s.dindex va)).dirty then
        .ok (((s.dline (s.dindex va)).fixedData.drop (a % 32)).take n)
          ((s.setDline (s.dindex va) { s.dline (s.dindex va) with data := (s.dline (s.dindex va)).fixedData, dataEcc := .none }).signal 15)
      else .ok (((s.dfillBytes a).drop (a % 32)).take n) ((s.dfill (s.dindex va) a).signal 15)
    | .fatal => .stop (raise (.eccData va) (s.signal 16))
    | .garbage => .ok (freeBytes s.draws n) (s.drawn.signal 16) := by
  rw [dcacheRead_eq, h]
  rfl

/-- The data of a dirty line reads as any RAM does. -/
theorem ddataRead_dirty (hd : l.dirty = true) : s.ddataRead l = s.eccRead l.dataEcc := by
  rw [State.ddataRead, hd]
  exact if_neg (by simp)

theorem ddataRead_off (off : bit s.config 2 = false) (l : CacheLine) : s.ddataRead l = .clean := by
  have ignored : s.eccOn = false := by rw [State.eccOn, off, Bool.and_false]
  rw [State.ddataRead, ignored, Bool.and_false]
  exact eccRead_off off _

theorem ddataRead_unmarked (h : l.dataEcc = .none) : s.ddataRead l = .clean := by
  rw [State.ddataRead, h]
  exact s.eccRead_none

/-- An error of a clean line is put right by reading the line again, whatever it is (log 44). -/
theorem ddataRead_refetch (he : s.cfg.ecc = true) (on : bit s.config 2 = true) (hd : l.dirty = false) (h : l.dataEcc ≠ .none) :
    s.ddataRead l = .corrected := by
  rw [State.ddataRead, hd, eccOn_eq he, on]
  cases hm : l.dataEcc with
  | none => exact absurd hm h
  | single k => exact eccRead_single he on k
  | double => rfl

/-! ### The cache instructions that compare the tag (20_memory.md R127, R129) -/

theorem dcacheCompare_valid (h0 : s.cfg.dcacheSize ≠ 0) (hv : (s.dline (s.dindex va)).valid = true) (ht : s.cfg.tightlyCoupled a = false) :
    dcacheCompare va a s =
      if s.eccRead (s.dline (s.dindex va)).tagEcc = .fatal then
        .stop (raise (.eccData va) (s.dtagRead (s.dindex va) (s.dline (s.dindex va))))
      else .ok (s.lineTag (s.dline (s.dindex va)) == a / 32) (s.dtagRead (s.dindex va) (s.dline (s.dindex va))) := by
  refine if_neg ?_
  rw [ht, show (s.dline (lineIndex s.cfg.dcacheSize va.toNat)).valid = true from hv]
  simp [h0]

theorem dcacheFlushAddr_congr (hi : t.dindex va = s.dindex va) (h : dcacheCompare va a s = dcacheCompare va a t) :
    dcacheFlushAddr va a s = dcacheFlushAddr va a t := by
  show (dcacheCompare va a s).andThen (fun hit s1 => .ok () (if hit then (s1.evict (s.dindex va)).dinvalidate (s.dindex va) else s1)) =
    (dcacheCompare va a t).andThen (fun hit s1 => .ok () (if hit then (s1.evict (t.dindex va)).dinvalidate (t.dindex va) else s1))
  rw [hi, h]

theorem dcacheInitAddr_congr (hi : t.dindex va = s.dindex va) (h : dcacheCompare va a s = dcacheCompare va a t) :
    dcacheInitAddr va a s = dcacheInitAddr va a t := by
  show (dcacheCompare va a s).andThen (fun hit s1 => .ok () (if hit then s1.dinvalidate (s.dindex va) else s1)) =
    (dcacheCompare va a t).andThen (fun hit s1 => .ok () (if hit then s1.dinvalidate (t.dindex va) else s1))
  rw [hi, h]

theorem dcacheFlushAddr_stop {r : Result} (h : dcacheCompare va a s = .stop r) : dcacheFlushAddr va a s = .stop r := by
  rw [dcacheFlushAddr, h]
  rfl

theorem dcacheInitAddr_stop {r : Result} (h : dcacheCompare va a s = .stop r) : dcacheInitAddr va a s = .stop r := by
  rw [dcacheInitAddr, h]
  rfl

theorem dcacheCompare_fatal (h0 : s.cfg.dcacheSize ≠ 0) (hv : (s.dline (s.dindex va)).valid = true)
    (ht : s.cfg.tightlyCoupled a = false) (hf : s.eccRead (s.dline (s.dindex va)).tagEcc = .fatal) :
    dcacheCompare va a s = .stop (raise (.eccData va) (s.drawn.signal 14)) := by
  rw [dcacheCompare_valid h0 hv ht, if_pos hf, dtagRead_fatal hf]

/-- The comparison with a tag whose 1-bit error is put right. -/
theorem dcacheCompare_tagCorrected {k : Nat} (he : s.cfg.ecc = true) (on : bit s.config 2 = true) (hi : s.dindex va < s.dcache.length)
    (h0 : s.cfg.dcacheSize ≠ 0) (hv : (s.dline (s.dindex va)).valid = true) (ht : s.cfg.tightlyCoupled a = false)
    (hk : (s.dline (s.dindex va)).tagEcc = .single k) :
    dcacheCompare va a s = dcacheCompare va a (s.tagCorrected (s.dindex va) k) := by
  have index : (s.tagCorrected (s.dindex va) k).dindex va = s.dindex va := rfl
  have line := dline_tagCorrected (k := k) hi
  have clean : (s.tagCorrected (s.dindex va) k).eccRead ((s.tagCorrected (s.dindex va) k).dline (s.dindex va)).tagEcc = .clean :=
    eccRead_clean (.inl (by rw [line]))
  have valid : ((s.tagCorrected (s.dindex va) k).dline (s.dindex va)).valid = true := by rw [line]; exact hv
  have tag : ((s.tagCorrected (s.dindex va) k).dline (s.dindex va)).line = s.lineTag (s.dline (s.dindex va)) := by
    rw [line, lineTag_single he on hk]
  have notFatal : s.eccRead (s.dline (s.dindex va)).tagEcc ≠ .fatal := by rw [hk, eccRead_single he on]; nofun
  rw [dcacheCompare_valid h0 hv ht, if_neg notFatal, dtagRead_single he on hk,
    dcacheCompare_valid (s := s.tagCorrected (s.dindex va) k) h0 (by rw [index]; exact valid) ht, index, clean,
    if_neg (by nofun), lineTag_clean clean, dtagRead_clean clean, tag]

/-! ### `flushd` (20_memory.md R126) -/

theorem dcacheFlushLine_dirty (h0 : s.cfg.dcacheSize ≠ 0) (hd : (s.dline (s.dindex va)).dirty = true) :
    s.dcacheFlushLine va = ((s.dtagRead (s.dindex va) (s.dline (s.dindex va))).evict (s.dindex va)).dinvalidate (s.dindex va) := by
  rw [State.dcacheFlushLine, if_neg h0]
  show State.dinvalidate (State.evict (if (s.dline (s.dindex va)).dirty then _ else _) _) _ = _
  rw [if_pos hd]
  rfl

theorem dcacheFlushLine_tagCorrected {k : Nat} (he : s.cfg.ecc = true) (on : bit s.config 2 = true) (hi : s.dindex va < s.dcache.length)
    (h0 : s.cfg.dcacheSize ≠ 0) (hd : (s.dline (s.dindex va)).dirty = true) (hk : (s.dline (s.dindex va)).tagEcc = .single k) :
    s.dcacheFlushLine va = (s.tagCorrected (s.dindex va) k).dcacheFlushLine va := by
  have index : (s.tagCorrected (s.dindex va) k).dindex va = s.dindex va := rfl
  have line := dline_tagCorrected (k := k) hi
  have clean : (s.tagCorrected (s.dindex va) k).eccRead ((s.tagCorrected (s.dindex va) k).dline (s.dindex va)).tagEcc = .clean :=
    eccRead_clean (.inl (by rw [line]))
  have dirty : ((s.tagCorrected (s.dindex va) k).dline (s.dindex va)).dirty = true := by rw [line]; exact hd
  rw [dcacheFlushLine_dirty h0 hd, dtagRead_single he on hk,
    dcacheFlushLine_dirty (s := s.tagCorrected (s.dindex va) k) h0 (by rw [index]; exact dirty), index, dtagRead_clean clean]

/-- A line written back whose tag is lost leaves the imprecise exception to come. -/
theorem writeBack_tagLost (he : s.cfg.ecc = true) (on : bit s.config 2 = true) (raises : bit s.config 3 = true) (hm : l.tagEcc = .double) :
    (s.writeBack l).wbError = true := by
  unfold State.writeBack
  dsimp only
  split <;> simp [hm, eccOn_eq he, on, eccRaises_eq he on, raises]

/-- A write-back lowers no signal. -/
theorem writeBack_eccBus (l : CacheLine) {m : Nat} (h : s.eccBus.getLsbD m = true) : (s.writeBack l).eccBus.getLsbD m = true := by
  unfold State.writeBack
  dsimp only
  split <;> simp [State.signal, h]

theorem dinvalidate_wbError (s : State) (i : Nat) : (s.dinvalidate i).wbError = s.wbError := State.injectionDone_wbError _ _

theorem dinvalidate_eccBus (s : State) (i : Nat) : (s.dinvalidate i).eccBus = s.eccBus := State.injectionDone_eccBus _ _

theorem dcacheFlushLine_tagLost (he : s.cfg.ecc = true) (on : bit s.config 2 = true) (raises : bit s.config 3 = true)
    (h0 : s.cfg.dcacheSize ≠ 0) (hd : (s.dline (s.dindex va)).dirty = true) (hm : (s.dline (s.dindex va)).tagEcc = .double) :
    (s.dcacheFlushLine va).wbError = true ∧ (s.dcacheFlushLine va).eccBus.getLsbD 14 = true := by
  have fatal : s.eccRead (s.dline (s.dindex va)).tagEcc = .fatal := by rw [hm, eccRead_fatal he on raises]
  have signal : (s.drawn.signal 14).eccBus.getLsbD 14 = true := by
    show (s.eccBus ||| _).getLsbD 14 = true
    rw [BitVec.getLsbD_or]
    exact (congrArg (s.eccBus.getLsbD 14 || ·) (by decide)).trans (Bool.or_true _)
  have evicted : (s.drawn.signal 14).evict (s.dindex va) = (s.drawn.signal 14).writeBack (s.dline (s.dindex va)) := if_pos hd
  rw [dcacheFlushLine_dirty h0 hd, dtagRead_fatal fatal, dinvalidate_wbError, dinvalidate_eccBus, evicted]
  exact ⟨writeBack_tagLost (s := s.drawn.signal 14) he on raises hm, writeBack_eccBus _ signal⟩

/-! ### A line written back (60_exceptions.md R493, R495) -/

/-- The bits of the first word that the injection of DCWB puts in error. -/
def State.writeBackBits (s : State) : List Nat := s.injectedBits injDcWb 32

/-- Where the tag has no error, the data and the injection decide. -/
theorem writeBack_cases (htag : l.tagEcc = .none) : s.writeBack l =
    match s.eccRead (l.dataEcc.worse (markOf s.writeBackBits)) with
    | .clean => (s.injectionDone injDcWb).lineWrite (l.line * 32) (s.writeBackBits.foldl flipBytes l.data)
    | .corrected => ((s.injectionDone injDcWb).lineWrite (l.line * 32) l.fixedData).signal 17
    | .fatal => { ((s.injectionDone injDcWb).lineWrite (l.line * 32) (freeBytes (s.injectionDone injDcWb).draws 32)).drawn.signal 18 with
        wbError := true }
    | .garbage => ((s.injectionDone injDcWb).lineWrite (l.line * 32) (freeBytes (s.injectionDone injDcWb).draws 32)).drawn.signal 18 := by
  have kept : s.lineTag l = l.line := lineTag_clean (eccRead_clean (.inl htag))
  have notLost : (s.eccOn && l.tagEcc == .double) = false := by rw [htag]; exact Bool.and_false _
  simp only [State.writeBack, kept, notLost, Bool.false_and, Bool.or_false, Bool.false_eq_true, if_false]
  rfl

/-- The bytes of memory that a write-back of the line reaches (20_memory.md R125, R135). -/
abbrev State.InLine (s : State) (l : CacheLine) (x : Nat) : Prop := l.line * 32 ≤ x ∧ x < l.line * 32 + 32 ∧ s.cfg.dlineRam x = true

theorem inLine_congr {f g : Nat → Byte} (h : ∀ o, o < 32 → f o = g o) (x : Nat) (b : Byte) :
    (if s.InLine l x then f (x - l.line * 32) else b) = if s.InLine l x then g (x - l.line * 32) else b := by
  by_cases inside : s.InLine l x
  · rw [if_pos inside, if_pos inside]
    exact h _ (by obtain ⟨above, below, -⟩ := inside; omega)
  · rw [if_neg inside, if_neg inside]

/-- Memory after 32 bytes are written to the line's address. -/
theorem lineWrite_read (hm : s.mem.wf = true) {data : List Byte} (hlen : data.length = 32) (l : CacheLine) (x : Nat) :
    ((s.injectionDone injDcWb).lineWrite (l.line * 32) data).mem.read x =
      if s.InLine l x then data.getD (x - l.line * 32) 0#8 else s.mem.read x := by
  rw [State.lineWrite_eq, State.busWriteTo_mem, State.injectionDone_cfg, State.injectionDone_mem]
  by_cases inside : l.line * 32 ≤ x ∧ x < l.line * 32 + 32
  · obtain ⟨k, rfl⟩ : ∃ k, x = l.line * 32 + k := ⟨x - l.line * 32, by omega⟩
    have hk : k < data.length := by omega
    rw [busStore_written _ hm _ hk, Nat.add_sub_cancel_left]
    by_cases ram : s.cfg.dlineRam (l.line * 32 + k) = true
    · rw [if_pos ram, if_pos ⟨inside.1, inside.2, ram⟩]
    · rw [if_neg ram, if_neg fun h => ram h.2.2]
  · rw [busStore_other _ _ _ _ _ (by omega), if_neg fun h => inside ⟨h.1, h.2.1⟩]

/-- A write-back takes the injection. -/
theorem writeBack_field (he : s.cfg.ecc = true) (htag : l.tagEcc = .none) : field (s.writeBack l).eccinj 20 2 = 0#2 := by
  have done : (s.writeBack l).eccinj = (s.injectionDone injDcWb).eccinj := by
    rw [writeBack_cases htag]
    split <;> simp
  rw [done]
  exact injectionDone_field he (by decide)

theorem writeBack_clean (htag : l.tagEcc = .none) (hm : s.mem.wf = true) (hlen : l.data.length = 32)
    (h : s.eccRead (l.dataEcc.worse (markOf s.writeBackBits)) = .clean) :
    (s.writeBack l).eccBus = s.eccBus ∧ (s.writeBack l).wbError = s.wbError
    ∧ ∀ x, (s.writeBack l).mem.read x =
      if s.InLine l x then (s.writeBackBits.foldl flipBytes l.data).getD (x - l.line * 32) 0#8 else s.mem.read x := by
  rw [writeBack_cases htag, h]
  exact ⟨by simp, by simp, lineWrite_read hm ((foldl_flipBytes_length _ _).trans hlen) l⟩

theorem writeBack_corrected (htag : l.tagEcc = .none) (hm : s.mem.wf = true) (hlen : l.data.length = 32)
    (h : s.eccRead (l.dataEcc.worse (markOf s.writeBackBits)) = .corrected) :
    ((s.writeBack l).eccBus = s.eccBus ||| 0x20000#30 ∧ (s.writeBack l).wbError = s.wbError)
    ∧ ∀ x, (s.writeBack l).mem.read x =
      if s.InLine l x then l.fixedData.getD (x - l.line * 32) 0#8 else s.mem.read x := by
  rw [writeBack_cases htag, h]
  refine ⟨⟨?_, by simp⟩, lineWrite_read hm ((CacheLine.fixedData_length l).trans hlen) l⟩
  exact congrArg (· ||| 0x20000#30) (by simp)

/-- An unrecoverable error: the bytes of the line are open, and the imprecise exception comes where ECCEXE is 1. -/
theorem writeBack_lost (he : s.cfg.ecc = true) (on : bit s.config 2 = true) (htag : l.tagEcc = .none) (hm : s.mem.wf = true)
    (h : l.dataEcc.worse (markOf s.writeBackBits) = .double) :
    (s.writeBack l).eccBus = s.eccBus ||| 0x40000#30 ∧ (s.writeBack l).wbError = (s.wbError || bit s.config 3)
    ∧ ∀ x, ¬ s.InLine l x → (s.writeBack l).mem.read x = s.mem.read x := by
  have open32 (x : Nat) (hx : ¬ s.InLine l x) :
      ((s.injectionDone injDcWb).lineWrite (l.line * 32) (freeBytes (s.injectionDone injDcWb).draws 32)).mem.read x = s.mem.read x :=
    (lineWrite_read hm (freeBytes_length _ _) l x).trans (if_neg hx)
  have bus : ((s.injectionDone injDcWb).lineWrite (l.line * 32) (freeBytes (s.injectionDone injDcWb).draws 32)).eccBus = s.eccBus := by simp
  have error : ((s.injectionDone injDcWb).lineWrite (l.line * 32) (freeBytes (s.injectionDone injDcWb).draws 32)).wbError = s.wbError := by simp
  rw [writeBack_cases htag, h]
  generalize (s.injectionDone injDcWb).lineWrite (l.line * 32) (freeBytes (s.injectionDone injDcWb).draws 32) = w at open32 bus error
  cases raises : bit s.config 3
  · rw [eccRead_garbage he on raises]
    exact ⟨congrArg (· ||| 0x40000#30) bus, error.trans (Bool.or_false _).symm, open32⟩
  · rw [eccRead_fatal he on raises]
    exact ⟨congrArg (· ||| 0x40000#30) bus, (Bool.or_true _).symm, open32⟩

theorem worse_none (m : EccMark) : m.worse .none = m := by cases m <;> rfl

theorem writeBackBits_none (he : s.cfg.ecc = true) (h : field s.eccinj 20 2 = 0#2) : s.writeBackBits = [] :=
  injectedBits_none (lo := injDcWb) he h 32

theorem fixedData_unmarked (h : l.dataEcc = .none) : l.fixedData = l.data := by
  rw [CacheLine.fixedData, h]
  rfl

/-! ### Loads -/

/-- The state after a line's 1-bit error is put right. -/
def State.dataCorrected (s : State) (i : Nat) : State :=
  s.setDline i { s.dline i with data := (s.dline i).fixedData, dataEcc := .none }

theorem dline_dataCorrected (hi : i < s.dcache.length) :
    (s.dataCorrected i).dline i = { s.dline i with data := (s.dline i).fixedData, dataEcc := .none } :=
  (s.dline_setDline i i _ hi).trans (if_pos rfl)

/-- The line that a load fills, with the errors that wait in it. -/
theorem dfill_leaves (he : s.cfg.ecc = true) (hwf : s.cfg.wf = true) (h0 : s.cfg.dcacheSize ≠ 0) (hi : i < s.dcache.length) (a : Nat) :
    TagWritten s (s.dfill i a) i (a / 32)
    ∧ (field s.eccinj 8 2 = 0#2 →
      ((s.dfill i a).dline i).dataEcc = .none ∧ ∀ o, o < 32 → ((s.dfill i a).dline i).data.getD o 0#8 = s.fillByte a o)
    ∧ (field s.eccinj 8 2 = 1#2 → ∃ k, k < 256 ∧ ((s.dfill i a).dline i).dataEcc = .single k
      ∧ ∀ o, o < 32 → ((s.dfill i a).dline i).data.getD o 0#8 = flipAt k (s.fillByte a) o)
    ∧ (field s.eccinj 8 2 = 2#2 → ((s.dfill i a).dline i).dataEcc = .double) := by
  have line : (s.dfill i a).dline i = s.dfilledLine a := (dline_dfill_injected s a hi i).trans (if_pos rfl)
  have mark : ((s.dfill i a).dline i).dataEcc = markOf (s.injectedBits injDcDat 256) := congrArg CacheLine.dataEcc line
  have data : ((s.dfill i a).dline i).data = (s.injectedBits injDcDat 256).foldl flipBytes (s.dfillBytes a) := congrArg CacheLine.data line
  have byte {o : Nat} (ho : o < 32) : ((s.injectedBits injDcDat 256).foldl flipBytes (s.dfillBytes a)).getD o 0#8 =
      (s.injectedBits injDcDat 256).foldl (fun byte k => flipAt k byte) (s.fillByte a) o :=
    foldl_flipBytes_getD (fun o ho => dfillBytes_getD s a (dfillBytes_length s a ▸ ho)) _ ((dfillBytes_length s a).symm ▸ ho)
  refine ⟨tagWritten_of hwf h0 he rfl rfl (dfill_fields he i a).1 (congrArg CacheLine.line line) (congrArg CacheLine.tagEcc line),
    fun h => ?_, fun h => ?_, fun h => ?_⟩
  · have none := injectedBits_none (lo := injDcDat) he h 256
    rw [mark, data]
    refine ⟨congrArg markOf none, fun o ho => (byte ho).trans ?_⟩
    rw [none]
    rfl
  · obtain ⟨k, hk, one⟩ := injectedBits_one (lo := injDcDat) he h (show 0 < 256 by decide)
    rw [mark, data]
    refine ⟨k, hk, congrArg markOf one, fun o ho => (byte ho).trans ?_⟩
    rw [one]
    rfl
  · obtain ⟨j, k, -, -, -, two⟩ := injectedBits_two (lo := injDcDat) he h (show 2 ≤ 256 by decide)
    exact mark.trans (congrArg markOf two)

/-- Settles O52: the tag in each of its states, then the data of a line that is there, then a line written back. -/
theorem eccDataCache : Obligations.EccDataCache := by
  intro s va a n bs he hwf hm hwhole hlen h0 hslice
  have hi : s.dindex va < s.dcache.length := dindex_lt hwf h0 hlen
  have hl : (s.dline (s.dindex va)).data.length = 32 := s.dline_length hwhole _
  refine ⟨fun io c ht hu => ?served, fun off hv hline => ?off, fun hv => ?invalid, fun k on hk => ?tagSingle, fun on hd ht raises => ?tagLost,
    fun on hv ht raises => ?tagFatal, fun on hv ht hline => ?data, fun ht => ?writeBack⟩
  case served =>
    unfold physRead physWrite
    rw [ht]
    exact ⟨if_pos hu, if_pos hu⟩
  case off =>
    rw [dcacheRead_present (dpresent_hit hv (eccRead_off off _) hline), ddataRead_off off]
    rfl
  case invalid =>
    obtain ⟨tag, data⟩ := dfill_leaves he hwf h0 hi a
    have line : (s.dfill (s.dindex va) a).dline (s.dindex va) = s.dfilledLine a := (dline_dfill_injected s a hi _).trans (if_pos rfl)
    obtain ⟨unmarked, one, two⟩ := data
    exact ⟨_, _, dcacheRead_filled (dpresent_invalid hv) n, fun k hk => dfillBytes_slice s hslice hk, dfill_changes s _ a,
      congrArg CacheLine.valid line, congrArg CacheLine.dirty line, (dfill_fields he _ a).2, tag, unmarked, one, two,
      fun j hj => (dline_dfill_injected s a hi j).trans (if_neg hj)⟩
  case tagSingle =>
    have index : (s.tagCorrected (s.dindex va) k).dindex va = s.dindex va := rfl
    have present (hv : (s.dline (s.dindex va)).valid = true) := dpresent_tagCorrected (va := va) (a := a) he on hi hv hk
    exact ⟨fun hv => ⟨dcacheRead_congr index (present hv) n, dcacheWrite_congr index (present hv) bs, fun htc =>
      have compare := dcacheCompare_tagCorrected he on hi h0 hv htc hk
      ⟨dcacheFlushAddr_congr index compare, dcacheInitAddr_congr index compare⟩⟩,
      fun hd => dcacheFlushLine_tagCorrected he on hi h0 hd hk⟩
  case tagLost => exact dcacheFlushLine_tagLost he on raises h0 hd ht
  case tagFatal =>
    have fatal : s.eccRead (s.dline (s.dindex va)).tagEcc = .fatal :=
      (congrArg s.eccRead ht).trans (eccRead_fatal he on raises)
    have stop := dpresent_fatal (va := va) (a := a) hv fatal
    exact ⟨dcacheRead_stop stop n, dcacheWrite_stop stop bs, fun htc =>
      have compare := dcacheCompare_fatal h0 hv htc fatal
      ⟨dcacheFlushAddr_stop compare, dcacheInitAddr_stop compare⟩⟩
  case data =>
    have read := dcacheRead_present (dpresent_hit (va := va) (a := a) hv (eccRead_clean (.inl ht)) hline) n
    refine ⟨fun h => ?_, fun k hd hk => ?_, fun hd hk raises => ?_, fun hd hk raises => ?_, fun hd hne => ?_⟩
    · rw [read, ddataRead_unmarked h]
      rfl
    · have line := dline_dataCorrected hi
      have bytes : ((s.dataCorrected (s.dindex va)).dline (s.dindex va)).data = (s.dline (s.dindex va)).fixedData := congrArg CacheLine.data line
      refine ⟨s.dataCorrected (s.dindex va), ?_, rfl, ?_, fun o ho => ?_, fun j hj => dline_setDline_ne _ _ hj⟩
      · have dirty : (s.dline (s.dindex va)).dirty = true := hd
        have mark : (s.dline (s.dindex va)).dataEcc = .single k := hk
        rw [read, ddataRead_dirty hd, mark, eccRead_single he on, bytes]
        exact if_pos dirty
      · rw [bytes]
        exact line
      · rw [bytes]
        exact fixedData_getD hk hl ho
    · have mark : (s.dline (s.dindex va)).dataEcc = .double := hk
      rw [read, ddataRead_dirty hd, mark, eccRead_fatal he on raises]
      rfl
    · have mark : (s.dline (s.dindex va)).dataEcc = .double := hk
      rw [read, ddataRead_dirty hd, mark, eccRead_garbage he on raises]
      rfl
    · have line : (s.dfill (s.dindex va) a).dline (s.dindex va) = s.dfilledLine a := (dline_dfill_injected s a hi _).trans (if_pos rfl)
      refine ⟨s.dfill (s.dindex va) a, _, ?_, dfill_changes s _ a, congrArg CacheLine.valid line, congrArg CacheLine.dirty line,
        fun k hk => dfillBytes_slice s hslice hk, fun j hj => (dline_dfill_injected s a hi j).trans (if_neg hj)⟩
      rw [read, ddataRead_refetch he on hd hne]
      exact if_neg (Bool.eq_false_iff.1 hd)
  case writeBack =>
    have one (h : field s.eccinj 20 2 = 1#2) : ∃ k, k < 32 ∧ s.writeBackBits = [k] := injectedBits_one (lo := injDcWb) he h (by decide)
    have unmarked (h : field s.eccinj 20 2 = 0#2) : (s.dline (s.dindex va)).dataEcc.worse (markOf s.writeBackBits) = (s.dline (s.dindex va)).dataEcc := by
      rw [writeBackBits_none he h]
      exact worse_none _
    refine ⟨writeBack_field he ht, fun on h hd => ?_, fun k on h hk => ?_, fun on h hd => ?_, fun on h hd => ?_, fun on h hd => ?_,
      fun off h => ?_, fun off h => ?_⟩
    · obtain ⟨bus, error, bytes⟩ := writeBack_clean ht hm hl (eccRead_clean (.inl ((unmarked h).trans hd)))
      rw [writeBackBits_none he h] at bytes
      exact ⟨bus, error, bytes⟩
    · obtain ⟨corrected, bytes⟩ := writeBack_corrected ht hm hl ((congrArg s.eccRead ((unmarked h).trans hk)).trans (eccRead_single he on k))
      exact ⟨corrected, fun x => (bytes x).trans (inLine_congr (f := fun o => (s.dline (s.dindex va)).fixedData.getD o 0#8)
        (fun o ho => fixedData_getD hk hl ho) x _)⟩
    · exact writeBack_lost he on ht hm ((unmarked h).trans hd)
    · obtain ⟨k, -, bits⟩ := one h
      have mark : (s.dline (s.dindex va)).dataEcc.worse (markOf s.writeBackBits) = .single k := by rw [hd, bits]; rfl
      obtain ⟨corrected, bytes⟩ := writeBack_corrected ht hm hl ((congrArg s.eccRead mark).trans (eccRead_single he on k))
      rw [fixedData_unmarked hd] at bytes
      exact ⟨corrected, bytes⟩
    · obtain ⟨j, k, -, -, -, bits⟩ := injectedBits_two (lo := injDcWb) he h (show 2 ≤ 32 by decide)
      exact writeBack_lost he on ht hm (by rw [hd, State.writeBackBits, bits]; rfl)
    · obtain ⟨bus, error, bytes⟩ := writeBack_clean ht hm hl (eccRead_off off _)
      rw [writeBackBits_none he h] at bytes
      exact ⟨bus, error, bytes⟩
    · obtain ⟨bus, error, bytes⟩ := writeBack_clean ht hm hl (eccRead_off off _)
      obtain ⟨k, hk, bits⟩ := one h
      rw [bits] at bytes
      exact ⟨bus, error, k, hk, fun x => (bytes x).trans (inLine_congr (f := fun o => (flipBytes (s.dline (s.dindex va)).data k).getD o 0#8)
        (fun o ho => flipBytes_getD_of (fun _ _ => rfl) k (hl.symm ▸ ho)) x _)⟩

end Sys2Proof.Machine
